-- ==== Sys2Proof/Word.lean ====
section
/-! DEFINITION. The words of the frame port: bytes and 16-bit address fields (spec/00_scope.md R12). -/

namespace Sys2Proof

/-- A byte (R12). -/
abbrev Byte := BitVec 8

/-- A 16-bit page or column field of a frame header (spec/30_encoding.md R104). -/
abbrev Half := BitVec 16

end Sys2Proof
end

