-- ==== Sys2Proof/Config.lean ====
section
/-! DEFINITION. The configuration of an instance (spec/00_scope.md R8–R11), the fixed device constants, and the
free values behind the draws of spec/20_memory.md R80. -/

namespace Sys2Proof

/-- What the transport answers for one frame (R14), with the draw of R80 (d): after a `TransportError` the device
either acted on the frame or ignored it. -/
inductive TransportAnswer where
  | answered
  | errorActed
  | errorIgnored
deriving DecidableEq, Repr, Inhabited

/-- The configuration (R8): fixed for the lifetime of an instance. It is carried in the state so that every
statement speaks of every instance; no operation writes it. -/
structure Config where
  /-- COLUMN_SIZE -/
  columnSize : Nat
  /-- COLUMNS_PER_PAGE -/
  columnsPerPage : Nat
  /-- PAGES_PER_BLOCK -/
  pagesPerBlock : Nat
  /-- TOTAL_SIZE -/
  totalSize : Nat
  /-- POLL_LIMIT -/
  pollLimit : Nat
  /-- POLL_INTERVAL, in milliseconds; no rule depends on it (spec/42_busy_wait.md R174) -/
  pollIntervalMs : Nat
  /-- ADDR_WIDTH -/
  addrWidth : Nat
  /-- WRDI_ON_FAIL -/
  wrdiOnFail : Bool
  /-- RDID_DUMMY_BYTES -/
  rdidDummyBytes : Nat
  /-- RDID_RX_LEN -/
  rdidRxLen : Nat
deriving DecidableEq, Repr

/-- PAGE_SIZE (R9). -/
def Config.pageSize (c : Config) : Nat := c.columnSize * c.columnsPerPage

/-- BLOCK_SIZE (R9). -/
def Config.blockSize (c : Config) : Nat := c.pageSize * c.pagesPerBlock

/-- NUM_PAGES (R9). -/
def Config.numPages (c : Config) : Nat := c.totalSize / c.pageSize

/-- NUM_BLOCKS (R9). -/
def Config.numBlocks (c : Config) : Nat := c.totalSize / c.blockSize

/-- Is the number a power of two? -/
def isPowerOfTwo (n : Nat) : Bool := 2 ^ n.log2 == n

/-- Is the number at least one? Written by cases, so that it computes on a free constant plus one. -/
def isPositive : Nat → Bool
  | 0 => false
  | _ + 1 => true

/-- The geometry invariants of R10 and `POLL_LIMIT ≥ 1` of R8. -/
def Config.valid (c : Config) : Bool :=
  isPowerOfTwo c.columnSize && isPowerOfTwo c.pageSize && isPowerOfTwo c.blockSize
    && decide (c.pageSize ≤ 65536) && decide (c.numPages ≤ 65536)
    && isPositive c.totalSize && c.totalSize % c.blockSize == 0
    && decide (c.totalSize ≤ 2 ^ c.addrWidth) && isPositive c.pollLimit

/-- STATUS_REG (R11). -/
def statusReg : Byte := 0xC0

/-- PROTECT_REG (R11). -/
def protectReg : Byte := 0xA0

/-- ERASED_BYTE (R11). -/
def erasedByte : Byte := 0xFF

/-- The OPEN parameter POLL_LIMIT of the reset configuration, less one (R8, D7): no value is known. -/
opaque Config.openPollLimit : Nat

/-- The OPEN parameter RDID_DUMMY_BYTES of the reset configuration (R8, D15): no value is known. That it may be any
number, so that an RDID header may be longer than the 4 bytes of R100, is a DESIGN CHOICE (log entry 24). -/
opaque Config.openRdidDummyBytes : Nat

/-- The OPEN parameter RDID_RX_LEN of the reset configuration (R8, D15): no value is known. -/
opaque Config.openRdidRxLen : Nat

/-- WEL at power-on: any value (spec/10_state.md R51). -/
opaque Config.powerOnWel : Bool

/-- EFAIL at power-on: any value (R51). -/
opaque Config.powerOnEfail : Bool

/-- PFAIL at power-on: any value (R51). -/
opaque Config.powerOnPfail : Bool

/-- BP at power-on: any value (R51). -/
opaque Config.powerOnBp : Byte

/-- Draw (d) of R80, number `n`, once the listed draws are used up. -/
opaque Config.freeTransport (n : Nat) : TransportAnswer

/-- Draw (a) of R80, number `n`: does the pending command complete now? -/
opaque Config.freeCompletes (n : Nat) : Bool

/-- Draw (b) of R80, number `n`: does the completing erase or program succeed? -/
opaque Config.freeSucceeds (n : Nat) : Bool

/-- Draw (c) of R80, number `n`: byte `i` of an "any value". -/
opaque Config.freeByte (n i : Nat) : Byte

/-- The reference configuration (R8), with its OPEN parameters free. -/
def Config.reference : Config where
  columnSize := 512
  columnsPerPage := 4
  pagesPerBlock := 64
  totalSize := 134217728
  pollLimit := Config.openPollLimit + 1
  pollIntervalMs := 10
  addrWidth := 32
  wrdiOnFail := true
  rdidDummyBytes := Config.openRdidDummyBytes
  rdidRxLen := Config.openRdidRxLen

end Sys2Proof
end

