-- ==== Sys2Proof/Syntax.lean ====
section
/-! DEFINITION. The instructions: the ten SPI commands and the four host operations of spec/opcode_table.json, and
the two records that carry them, frames (spec/30_encoding.md R100) and host requests (R109). -/

namespace Sys2Proof

/-- One constructor per row of spec/opcode_table.json. -/
inductive Instr where
  /-- RDID (R130). Its frame shape is OPEN (R108), so the instruction keeps the shape found on the frame port: the
  number of 0x00 bytes after the opcode and the number of bytes received. -/
  | rdid (dummy rx : Nat)
  /-- RDSR reg (R131) -/
  | rdsr (reg : Byte)
  /-- WRSR reg, value (R132) -/
  | wrsr (reg value : Byte)
  /-- WREN (R133) -/
  | wren
  /-- WRDI (R134) -/
  | wrdi
  /-- PRDC page (R135) -/
  | prdc (page : Half)
  /-- RDC col, n (R136) -/
  | rdc (col : Half) (n : Nat)
  /-- PLD col, data (R137) -/
  | pld (col : Half) (data : List Byte)
  /-- PEX page (R139) -/
  | pex (page : Half)
  /-- BERS page (R138) -/
  | bers (page : Half)
  /-- GEOMETRY (R283); offset, length and buffer are latched and otherwise ignored -/
  | geometry (offset length : Nat) (buf : Option Nat)
  /-- ERASE offset, length (R222); the buffer is ignored -/
  | erase (offset length : Nat) (buf : Option Nat)
  /-- READ offset, length into a host buffer (R262) -/
  | read (offset length : Nat) (buf : Option Nat)
  /-- WRITE offset, length from a host buffer (R242) -/
  | write (offset length : Nat) (buf : Option Nat)
deriving DecidableEq, Repr

/-- Is the instruction an SPI command (spec/30_encoding.md R106), not a host operation? -/
def Instr.isCommand : Instr → Bool
  | .rdid _ _ => true
  | .rdsr _ => true
  | .wrsr _ _ => true
  | .wren => true
  | .wrdi => true
  | .prdc _ => true
  | .rdc _ _ => true
  | .pld _ _ => true
  | .pex _ => true
  | .bers _ => true
  | .geometry _ _ _ => false
  | .erase _ _ _ => false
  | .read _ _ _ => false
  | .write _ _ _ => false

/-- One frame: the transmitted bytes, header first, and the number of bytes received after them (R15, R100). -/
structure Frame where
  tx : List Byte
  rx : Nat
deriving DecidableEq, Repr

/-- A host request record (R109); `buf` is a buffer handle, absent for GEOMETRY and ERASE. -/
structure Request where
  op : Byte
  offset : Nat
  length : Nat
  buf : Option Nat
deriving DecidableEq, Repr

/-- What carries an instruction to the machine: a frame on the frame port or a record on the request port. -/
inductive PortItem where
  | frame (f : Frame)
  | request (r : Request)
deriving DecidableEq, Repr

end Sys2Proof
end

