-- ==== Sys2Proof/WellFormed.lean ====
section
/-! DEFINITION. Which instructions are well formed under a configuration: the operand ranges of
spec/30_encoding.md R101, R104, R108 and R109. -/

namespace Sys2Proof

/-- A page address is a page index below NUM_PAGES (R104). -/
abbrev pageInRange (c : Config) (page : Half) : Prop := page.toNat < c.numPages

/-- A host record field holds ADDR_WIDTH bits (R109). -/
abbrev fitsField (c : Config) (n : Nat) : Prop := n < 2 ^ c.addrWidth

/-- The operand ranges of each instruction. An ill-formed frame still reaches the device, which marks it a device
fault (spec/20_memory.md R84). That a PLD of no bytes is well formed at col = PAGE_SIZE too is a DESIGN CHOICE (log
entry 25). -/
abbrev wellFormed (c : Config) (i : Instr) : Prop :=
  match i with
  | .rdid dummy rx => dummy = c.rdidDummyBytes ∧ rx = c.rdidRxLen
  | .rdsr _ => True
  | .wrsr _ _ => True
  | .wren => True
  | .wrdi => True
  | .prdc page => pageInRange c page
  | .rdc col n => 1 ≤ n ∧ col.toNat + n ≤ c.pageSize
  | .pld col data => col.toNat + data.length ≤ c.pageSize
  | .pex page => pageInRange c page
  | .bers page => pageInRange c page
  | .geometry offset length _ => fitsField c offset ∧ fitsField c length
  | .erase offset length _ => fitsField c offset ∧ fitsField c length
  | .read offset length _ => fitsField c offset ∧ fitsField c length
  | .write offset length _ => fitsField c offset ∧ fitsField c length

end Sys2Proof
end

