-- ==== Sys2Proof/Decode.lean ====
section
/-! DEFINITION. Decoding of frames and request records (spec/30_encoding.md R100–R110), the encoder, and the reading
of an opcode-table word. -/

namespace Sys2Proof

/-! ### Byte order of the address fields (R67, R104) -/

/-- Bits 15..8 of a page or column field. -/
def hiByte (h : Half) : Byte := h.extractLsb' 8 8

/-- Bits 7..0 of a page or column field. -/
def loByte (h : Half) : Byte := h.extractLsb' 0 8

/-- The field whose high and low bytes are given. -/
def joinBytes (hi lo : Byte) : Half := hi ++ lo

/-! ### Opcodes (R106) and host operation codes (R109) -/

def opcRdid : Byte := 0x9F
def opcRdsr : Byte := 0x05
def opcWrsr : Byte := 0x01
def opcWren : Byte := 0x06
def opcWrdi : Byte := 0x04
def opcPrdc : Byte := 0x13
def opcRdc : Byte := 0x03
def opcPld : Byte := 0x02
def opcPex : Byte := 0x10
def opcBers : Byte := 0xD8

def hostGeometry : Byte := 0x00
def hostErase : Byte := 0x01
def hostRead : Byte := 0x02
def hostWrite : Byte := 0x03

/-- Why a frame or a record is no instruction. -/
inductive DecodeError where
  /-- a frame with no opcode byte (R100) -/
  | emptyFrame
  /-- an opcode byte that R106 does not list (R107) -/
  | unassignedOpcode (opc : Byte)
  /-- a frame whose shape is not its opcode's (R101, R105) -/
  | wrongShape (opc : Byte)
  /-- a nonzero value in a fixed 0x00 byte (R102) -/
  | fixedByteNonzero (opc : Byte)
  /-- a host operation code 0x04 to 0xFF (R110) -/
  | unassignedOp (op : Byte)
deriving DecidableEq, Repr

/-! ### One reader per frame format (R101): the bytes after the opcode, and the received length -/

/-- Format OP: nothing after the opcode, nothing received. -/
def readOp (opc : Byte) (i : Instr) (rest : List Byte) (rx : Nat) : Except DecodeError Instr :=
  if rest = [] ∧ rx = 0 then .ok i else .error (.wrongShape opc)

/-- Format RREG: one register byte, one byte received. -/
def readRreg (opc : Byte) (mk : Byte → Instr) (rest : List Byte) (rx : Nat) : Except DecodeError Instr :=
  match rest with
  | [reg] => if rx = 1 then .ok (mk reg) else .error (.wrongShape opc)
  | _ => .error (.wrongShape opc)

/-- Format WREG: a register byte and a value byte. -/
def readWreg (opc : Byte) (mk : Byte → Byte → Instr) (rest : List Byte) (rx : Nat) : Except DecodeError Instr :=
  match rest with
  | [reg, value] => if rx = 0 then .ok (mk reg value) else .error (.wrongShape opc)
  | _ => .error (.wrongShape opc)

/-- Format PAGE: 0x00, page[15:8], page[7:0]. -/
def readPage (opc : Byte) (mk : Half → Instr) (rest : List Byte) (rx : Nat) : Except DecodeError Instr :=
  match rest with
  | [fixed, hi, lo] =>
    if rx ≠ 0 then .error (.wrongShape opc)
    else if fixed ≠ 0 then .error (.fixedByteNonzero opc)
    else .ok (mk (joinBytes hi lo))
  | _ => .error (.wrongShape opc)

/-- Format RCACHE: col[15:8], col[7:0], 0x00, then at least one byte received. -/
def readRcache (opc : Byte) (mk : Half → Nat → Instr) (rest : List Byte) (rx : Nat) : Except DecodeError Instr :=
  match rest with
  | [hi, lo, fixed] =>
    if rx = 0 then .error (.wrongShape opc)
    else if fixed ≠ 0 then .error (.fixedByteNonzero opc)
    else .ok (mk (joinBytes hi lo) rx)
  | _ => .error (.wrongShape opc)

/-- Format WCACHE: col[15:8], col[7:0], then the data phase. -/
def readWcache (opc : Byte) (mk : Half → List Byte → Instr) (rest : List Byte) (rx : Nat) :
    Except DecodeError Instr :=
  match rest with
  | hi :: lo :: data => if rx = 0 then .ok (mk (joinBytes hi lo) data) else .error (.wrongShape opc)
  | _ => .error (.wrongShape opc)

/-- Format ID: 0x00 bytes after the opcode; how many, and how many bytes are received, is OPEN (R108). -/
def readId (opc : Byte) (mk : Nat → Nat → Instr) (rest : List Byte) (rx : Nat) : Except DecodeError Instr :=
  if rest.all (· == 0) then .ok (mk rest.length rx) else .error (.fixedByteNonzero opc)

/-- The instruction of a frame (R106): total, and every other frame is rejected by name. -/
def decodeFrame (f : Frame) : Except DecodeError Instr :=
  match f.tx with
  | [] => .error .emptyFrame
  | opc :: rest =>
    if opc = opcRdid then readId opc .rdid rest f.rx
    else if opc = opcRdsr then readRreg opc .rdsr rest f.rx
    else if opc = opcWrsr then readWreg opc .wrsr rest f.rx
    else if opc = opcWren then readOp opc .wren rest f.rx
    else if opc = opcWrdi then readOp opc .wrdi rest f.rx
    else if opc = opcPrdc then readPage opc .prdc rest f.rx
    else if opc = opcRdc then readRcache opc .rdc rest f.rx
    else if opc = opcPld then readWcache opc .pld rest f.rx
    else if opc = opcPex then readPage opc .pex rest f.rx
    else if opc = opcBers then readPage opc .bers rest f.rx
    else .error (.unassignedOpcode opc)

/-- The instruction of a request record (R109); op codes 0x04 to 0xFF are unassigned (R110). -/
def decodeRequest (r : Request) : Except DecodeError Instr :=
  if r.op = hostGeometry then .ok (.geometry r.offset r.length r.buf)
  else if r.op = hostErase then .ok (.erase r.offset r.length r.buf)
  else if r.op = hostRead then .ok (.read r.offset r.length r.buf)
  else if r.op = hostWrite then .ok (.write r.offset r.length r.buf)
  else .error (.unassignedOp r.op)

/-- The instruction a port item carries. -/
def decode : PortItem → Except DecodeError Instr
  | .frame f => decodeFrame f
  | .request r => decodeRequest r

/-! ### The encoder (R101, R104, R109) -/

/-- Header bytes of a PAGE frame. -/
def pageHeader (opc : Byte) (page : Half) : List Byte := [opc, 0x00, hiByte page, loByte page]

/-- The port item that carries an instruction. -/
def encode : Instr → PortItem
  | .rdid dummy rx => .frame ⟨opcRdid :: List.replicate dummy 0x00, rx⟩
  | .rdsr reg => .frame ⟨[opcRdsr, reg], 1⟩
  | .wrsr reg value => .frame ⟨[opcWrsr, reg, value], 0⟩
  | .wren => .frame ⟨[opcWren], 0⟩
  | .wrdi => .frame ⟨[opcWrdi], 0⟩
  | .prdc page => .frame ⟨pageHeader opcPrdc page, 0⟩
  | .rdc col n => .frame ⟨[opcRdc, hiByte col, loByte col, 0x00], n⟩
  | .pld col data => .frame ⟨opcPld :: hiByte col :: loByte col :: data, 0⟩
  | .pex page => .frame ⟨pageHeader opcPex page, 0⟩
  | .bers page => .frame ⟨pageHeader opcBers page, 0⟩
  | .geometry offset length buf => .request ⟨hostGeometry, offset, length, buf⟩
  | .erase offset length buf => .request ⟨hostErase, offset, length, buf⟩
  | .read offset length buf => .request ⟨hostRead, offset, length, buf⟩
  | .write offset length buf => .request ⟨hostWrite, offset, length, buf⟩

/-! ### Words of spec/opcode_table.json

The table numbers a word's bits from its first byte. The frame opcodes and the host operation codes are two code
spaces that overlap in 0x01, 0x02 and 0x03 (R106, R109); the table gives no bit that tells them apart. A word is read
as a frame where its first byte is a frame opcode, and as a request otherwise; a word of exactly 72 bits is a whole
request record (op, offset, length). DESIGN CHOICE, log entry 15. -/

/-- The bytes of a table word, first byte first. -/
def tableBytes (nbits w : Nat) : List Byte :=
  (List.range ((nbits + 7) / 8)).map fun k => BitVec.ofNat 8 (w >>> (8 * k))

/-- The header length of a frame opcode (R101); the ID shape is OPEN, so its header is the opcode alone. -/
def headerLength (opc : Byte) : Option Nat :=
  if opc = opcRdid ∨ opc = opcWren ∨ opc = opcWrdi then some 1
  else if opc = opcRdsr then some 2
  else if opc = opcWrsr ∨ opc = opcPld then some 3
  else if opc = opcPrdc ∨ opc = opcRdc ∨ opc = opcPex ∨ opc = opcBers then some 4
  else none

/-- The received length a table word stands for: it is in no bit of the word, so RDSR has its one byte, RDC the
shortest data phase it admits, and every other frame none. -/
def tableRx (opc : Byte) : Nat := if opc = opcRdsr ∨ opc = opcRdc then 1 else 0

/-- An unsigned number from bytes, most significant first (as spec/95_test_vectors.md writes request records). -/
def bigEndian (bs : List Byte) : Nat := bs.foldl (fun n b => n * 256 + b.toNat) 0

/-- The buffer handle of a table word's request: READ and WRITE pass a buffer, the others none (R109). -/
def tableBuf (op : Byte) : Option Nat := if op = hostRead ∨ op = hostWrite then some 0 else none

/-- The port item a table word stands for, with zeros above its bits. -/
def tableItem (nbits w : Nat) : PortItem :=
  let bs := tableBytes nbits w
  let opc := bs.headD 0
  if bs.length = 9 then .request ⟨opc, bigEndian ((bs.drop 1).take 4), bigEndian (bs.drop 5), tableBuf opc⟩
  else
    match headerLength opc with
    | some h => .frame ⟨bs ++ List.replicate (h - bs.length) 0x00, tableRx opc⟩
    | none => .request ⟨opc, 0, 0, tableBuf opc⟩

/-- The instruction the decoder reads from a table word. -/
def decodeTableWord (nbits w : Nat) : Option Instr :=
  match decode (tableItem nbits w) with
  | .ok i => some i
  | .error _ => none

end Sys2Proof
end

