-- ==== Sys2Proof/Machine/State.lean ====
section
/-! DEFINITION. The state of the machine as plain data (spec/10_state.md), its faults and refusals, and reset
(R50, R51). -/

namespace Sys2Proof.Machine

/-- The sequencer state `pc` (R24). -/
inductive Pc where
  | bringup | idle | dead | recover
  | eUnit | eWel | eCmd | eBusy | eReady | eFailed
  | pUnit | pWel | pLoaded | pCmd | pBusy | pReady | pFailed
  | rUnit | rPageLoaded | rBusy | rReady
  | wrdi | respond
deriving DecidableEq, Repr

/-- The error codes (spec/60_exceptions.md R300), in the order of their numbers 0 to 5. -/
inductive ErrorCode where
  | ok | invalidArgument | timeout | operationFailed | transportError | cancelled
deriving DecidableEq, Repr

/-- What the device is executing while BUSY = 1 (R43). -/
inductive Pending where
  | load (page : Nat)
  | erase (page : Nat)
  | program (page : Nat)
deriving DecidableEq, Repr

/-- A byte store as a list of (address, byte) cells; an address that is not listed reads ERASED_BYTE (log entry 1). -/
abbrev Memory := List Host.Cell

/-- The canonical form: addresses strictly rising, and no entry equal to what an unlisted address reads as. -/
abbrev Memory.wf (m : Memory) : Prop :=
  m.Pairwise (fun a b => a.1 < b.1) ∧ ∀ cell ∈ m, cell.2 ≠ erasedByte

/-- The engine's datapath registers (R21), sequencer state (R24) and flags (R32, R33). -/
structure Engine where
  pc : Pc
  /-- OP -/
  op : Byte
  /-- OFFSET -/
  offset : Nat
  /-- LENGTH -/
  length : Nat
  /-- BUF: a buffer handle, or no buffer -/
  buf : Option Nat
  /-- UNIT -/
  unit : Nat
  /-- NUNITS -/
  nunits : Nat
  /-- PAGE -/
  page : Nat
  /-- COL -/
  col : Nat
  /-- SLEN -/
  slen : Nat
  /-- DST -/
  dst : Nat
  /-- POLLS -/
  polls : Nat
  /-- STATUS -/
  status : Byte
  /-- MASK -/
  mask : Byte
  /-- RESULT -/
  result : ErrorCode
  /-- COUNT -/
  count : Nat
  /-- MAYBE_BUSY -/
  maybeBusy : Bool
  /-- CANCEL -/
  cancel : Bool
  /-- was the engine DEAD when it accepted the request? Implied by R280 (log entry 3) -/
  wasDead : Bool
deriving DecidableEq, Repr

/-- The device reference model (R40–R46). BUSY is the view `pending.isSome` (R43). -/
structure Device where
  /-- ARRAY, by linear byte address (spec/20_memory.md R62) -/
  array : Memory
  /-- CACHE, by column -/
  cache : Memory
  /-- WEL -/
  wel : Bool
  /-- PENDING -/
  pending : Option Pending
  /-- EFAIL -/
  efail : Bool
  /-- PFAIL -/
  pfail : Bool
  /-- BP -/
  bp : Byte
  /-- DFAULT -/
  dfault : Bool
deriving DecidableEq, Repr

/-- The model's own state: the draws of spec/20_memory.md R80 still to come. A list that is used up hands over to the
free values of Config, applied to `count`, which every draw advances (log entry 7). -/
structure Draws where
  transport : List TransportAnswer
  completes : List Bool
  succeeds : List Bool
  bytes : List Byte
  count : Nat
deriving DecidableEq, Repr

/-- The host's inputs other than requests (spec/47_host_interface.md R288, R289). -/
inductive HostMove where
  | quiet | cancel | reset
deriving DecidableEq, Repr

/-- The four fields GEOMETRY reports (R280, R283). -/
structure Geometry where
  columnSize : Nat
  columnsPerPage : Nat
  pagesPerBlock : Nat
  totalSize : Nat
deriving DecidableEq, Repr

/-- The response record (R280); `geometry` is present for GEOMETRY only. -/
structure Response where
  code : ErrorCode
  count : Nat
  geometry : Option Geometry
deriving DecidableEq, Repr

/-- The host's side of the request port: the records it presents, oldest first, its other inputs, one per engine
transition, its buffers by handle (spec/20_memory.md R66), and the response last driven to it. -/
structure HostSide where
  requests : List Request
  moves : List HostMove
  bufs : List (List Byte)
  response : Option Response
deriving DecidableEq, Repr

/-- What the transport answered for the last frame (R14): the received bytes (none for a `Send`) or an error. -/
inductive Reply where
  | data (bytes : List Byte)
  | transportError
deriving DecidableEq, Repr

/-- An entry of the frame trace (R15), or the mark of a `Wait` (R14). -/
inductive TraceEvent where
  | frame (tx : List Byte) (rx : Nat)
  | wait
deriving DecidableEq, Repr

/-- The whole machine. -/
structure State where
  cfg : Config
  eng : Engine
  dev : Device
  draws : Draws
  host : HostSide
  /-- a frame on the frame port that the device has not taken yet (R3, R100) -/
  framePort : Option Frame
  reply : Reply
  trace : List TraceEvent
deriving DecidableEq, Repr

/-- Why the machine stops. -/
inductive Fault where
  /-- Raised at acceptance by READ and WRITE when the buffer the host passed is absent or has not exactly LENGTH bytes,
  and by a buffer access outside the buffer: a host that breaks R287 (b) has no step (spec/93_implementation_defined.md
  I20). Safe. -/
  | bufferDuty
deriving DecidableEq, Repr

/-- Why the machine gives no meaning. -/
inductive Refusal where
  /-- Raised by exec for an instruction that has no meaning yet; none is left. Safe. -/
  | notModelled (mnemonic : String)
  /-- Raised by fetch when the configuration breaks R10: the model has no instance for it
  (spec/92_eei_decisions.md D32). Safe. -/
  | badConfiguration
  /-- Raised by fetch for a presented record whose offset or length does not fit the ADDR_WIDTH bits of the port
  (R109): no host can present it. Safe. -/
  | recordTooWide
deriving DecidableEq, Repr

/-- Every engine register and flag at its reset value (R50). -/
def Engine.reset : Engine where
  pc := .bringup
  op := 0
  offset := 0
  length := 0
  buf := none
  unit := 0
  nunits := 0
  page := 0
  col := 0
  slen := 0
  dst := 0
  polls := 0
  status := 0
  mask := 0
  result := .ok
  count := 0
  maybeBusy := false
  cancel := false
  wasDead := false

/-- The device at power-on (R51): free values, idle by the launch premise R343 (b), DFAULT = 0; array and cache list
nothing (log entry 1). -/
def Device.powerOn : Device where
  array := []
  cache := []
  wel := Config.powerOnWel
  pending := none
  efail := Config.powerOnEfail
  pfail := Config.powerOnPfail
  bp := Config.powerOnBp
  dfault := false

/-- The machine right after reset (R50, R51, R340). -/
def State.reset : State where
  cfg := Config.reference
  eng := Engine.reset
  dev := Device.powerOn
  draws := ⟨[], [], [], [], 0⟩
  host := ⟨[], [], [], none⟩
  framePort := none
  reply := .data []
  trace := []

end Sys2Proof.Machine
end

