-- ==== Sys2Proof/Machine/Flags.lean ====
section
/-! DEFINITION. Flags and status bits: the device status byte (spec/10_state.md R35), the fail masks and the settle
decision (spec/42_busy_wait.md R170, R172), READY (R34) and the error codes' numbers (spec/60_exceptions.md R300). -/

namespace Sys2Proof.Machine

/-- BUSY: the device is executing a command (R43). -/
def Device.busy (d : Device) : Bool := d.pending.isSome

/-- BUSY_BIT of a status byte (R11). -/
def busyBit (status : Byte) : Bool := status.getLsbD 0

/-- The mask of the erase-fail bit, bit 2 (R11). -/
def efailMask : Byte := 0x04

/-- The mask of the program-fail bit, bit 3 (R11). -/
def pfailMask : Byte := 0x08

/-- The mask of an await that tests no fail bit (R170). -/
def noMask : Byte := 0x00

/-- One bit at a place of a byte. -/
def bitAt (b : Bool) (place : Byte) : Byte := if b then place else 0x00

/-- The value of device register 0xC0: bit 0 BUSY, bit 2 EFAIL, bit 3 PFAIL, the unnamed bits 1 and 7..4 any value
(R35). -/
def statusByte (d : Device) (any : Byte) : Byte :=
  (any &&& 0xF2) ||| bitAt d.busy 0x01 ||| bitAt d.efail efailMask ||| bitAt d.pfail pfailMask

/-- What an await decides after a status read (R172). -/
inductive Settle where
  | ok | failed | timeout | again
deriving DecidableEq, Repr

/-- The settle decision on STATUS, MASK and POLLS, in the order of R172 and R308 item 5. -/
def settle (e : Engine) (pollLimit : Nat) : Settle :=
  if busyBit e.status = false then
    if e.status &&& e.mask ≠ 0 then .failed else .ok
  else if e.polls = pollLimit then .timeout
  else .again

/-- The errors after which the device may still be executing a command (R309). -/
def ErrorCode.leavesBusy : ErrorCode → Bool
  | .timeout => true
  | .transportError => true
  | .ok => false
  | .invalidArgument => false
  | .operationFailed => false
  | .cancelled => false

/-- The numbers of the error codes (R300). -/
def ErrorCode.number : ErrorCode → BitVec 3
  | .ok => 0
  | .invalidArgument => 1
  | .timeout => 2
  | .operationFailed => 3
  | .transportError => 4
  | .cancelled => 5

/-- READY: the engine accepts a request (R34, R281). -/
def Pc.ready (p : Pc) : Bool :=
  match p with
  | .idle => true
  | .dead => true
  | _ => false

/-- A request is in flight (spec/47_host_interface.md R288). -/
def Pc.inFlight (p : Pc) : Bool :=
  match p with
  | .idle => false
  | .dead => false
  | .bringup => false
  | _ => true

/-- A unit boundary, the only place where CANCEL is read (R33). -/
def Pc.unitBoundary (p : Pc) : Bool :=
  match p with
  | .eUnit => true
  | .pUnit => true
  | .rUnit => true
  | _ => false

end Sys2Proof.Machine
end

