-- ==== Sys2Proof/Machine/Operands.lean ====
section
/-! DEFINITION. The address translator and multi-page span handler (spec/43_address_translator.md), and the header
fields the sequencer writes from its registers (spec/30_encoding.md R104). -/

namespace Sys2Proof.Machine

/-- PageOf (R190). -/
def pageOf (c : Config) (a : Nat) : Nat := a / c.pageSize

/-- ColOf (R190). -/
def colOf (c : Config) (a : Nat) : Nat := a % c.pageSize

/-- The block of a page (spec/20_memory.md R65). -/
def blockOf (c : Config) (page : Nat) : Nat := page / c.pagesPerBlock

/-- The first linear byte of a page (R62). -/
def pageBase (c : Config) (page : Nat) : Nat := page * c.pageSize

/-- The first linear byte of the block that holds a page (R65). -/
def blockBase (c : Config) (page : Nat) : Nat := blockOf c page * c.blockSize

/-- InRange (R191), exact over the naturals. -/
def inRange (c : Config) (offset length : Nat) : Bool :=
  decide (offset < c.totalSize) && decide (length ≤ c.totalSize - offset)

/-- Offset and length are multiples of a granularity (R194 with BLOCK_SIZE, R198 with PAGE_SIZE). -/
def alignedTo (grain offset length : Nat) : Bool := offset % grain == 0 && length % grain == 0

/-- The checks of an ERASE (R191, R194). -/
def eraseChecks (c : Config) (offset length : Nat) : Bool :=
  inRange c offset length && alignedTo c.blockSize offset length

/-- The checks of a READ (R191, R202). -/
def readChecks (c : Config) (offset length : Nat) : Bool := inRange c offset length

/-- The checks of a WRITE (R191, R198). -/
def writeChecks (c : Config) (offset length : Nat) : Bool :=
  inRange c offset length && alignedTo c.pageSize offset length

/-- NUNITS of PlanErase and PlanAccess: the pages from the first to the last, inclusive (R195, R203). -/
def spannedPages (c : Config) (offset length : Nat) : Nat :=
  (offset + length - 1) / c.pageSize - offset / c.pageSize + 1

/-- NUNITS of PlanProgram (R199). -/
def programUnits (c : Config) (length : Nat) : Nat := length / c.pageSize

/-- The page of unit `k` (R195, R199). -/
def unitPage (c : Config) (offset k : Nat) : Nat := offset / c.pageSize + k

/-- A PageSlice with its place in the output buffer (R203). -/
structure Slice where
  page : Nat
  columnOffset : Nat
  lengthInPage : Nat
  dst : Nat
deriving DecidableEq, Repr

/-- Slice(k) in closed form (R203). -/
def sliceAt (c : Config) (offset length k : Nat) : Slice :=
  let p := offset / c.pageSize + k
  let lo := max offset (p * c.pageSize)
  let hi := min (offset + length) ((p + 1) * c.pageSize)
  { page := p, columnOffset := lo - p * c.pageSize, lengthInPage := hi - lo, dst := lo - offset }

/-- The slice sequence of PlanAccess (R203); the engine never stores it (R205). -/
def planAccess (c : Config) (offset length : Nat) : List Slice :=
  (List.range (spannedPages c offset length)).map (sliceAt c offset length)

/-- A register as a 16-bit header field (R104). -/
def field16 (n : Nat) : Half := BitVec.ofNat 16 n

/-- The header bytes of a PAGE frame for register PAGE (R104). -/
def pageFrame (opc : Byte) (page : Nat) : List Byte :=
  [opc, 0x00, hiByte (field16 page), loByte (field16 page)]

/-- The header bytes of an RCACHE frame for register COL (R104). -/
def readCacheFrame (col : Nat) : List Byte :=
  [opcRdc, hiByte (field16 col), loByte (field16 col), 0x00]

end Sys2Proof.Machine
end

