-- ==== Sys2Proof/Machine/Ops.lean ====
section
/-! DEFINITION. The named operations over memory, draws, buffers and registers; `raise`, the one way an error is
entered (spec/60_exceptions.md R307), and `respond`, the return from it (spec/47_host_interface.md R280). -/

namespace Sys2Proof.Machine

/-! ### Byte stores -/

/-- The byte at an address; ERASED_BYTE where nothing is listed (log entry 1). -/
def Memory.read (m : Memory) (a : Nat) : Byte :=
  match m with
  | [] => erasedByte
  | cell :: rest => if cell.1 = a then cell.2 else Memory.read rest a

/-- The cells of `n` bytes `f 0, f 1, …` from address `lo`, in canonical form. -/
def Memory.cells (lo n : Nat) (f : Nat → Byte) : Memory :=
  (List.range n).filterMap fun i => if f i = erasedByte then none else some (lo + i, f i)

/-- Every address of `[lo, lo + n)` reads ERASED_BYTE; the others keep their bytes. -/
def Memory.clear (m : Memory) (lo n : Nat) : Memory :=
  m.filter fun cell => decide (cell.1 < lo) || decide (lo + n ≤ cell.1)

/-- Address `lo + i` takes the byte `f i` for `i < n`; the others keep their bytes. -/
def Memory.fill (m : Memory) (lo n : Nat) (f : Nat → Byte) : Memory :=
  m.filter (fun cell => decide (cell.1 < lo)) ++ Memory.cells lo n f
    ++ m.filter (fun cell => decide (lo + n ≤ cell.1))

/-- The `n` bytes from address `lo`. -/
def Memory.bytes (m : Memory) (lo n : Nat) : List Byte := (List.range n).map fun i => m.read (lo + i)

/-- Is every byte of `[lo, lo + n)` ERASED_BYTE (spec/20_memory.md R82)? -/
def Memory.isErased (m : Memory) (lo n : Nat) : Bool :=
  (List.range n).all fun i => m.read (lo + i) == erasedByte

/-! ### Draws (spec/20_memory.md R80, log entry 7) -/

/-- The transport's answer for the next frame (R80 (d)). -/
def Draws.transportNow (d : Draws) : TransportAnswer := d.transport.headD (Config.freeTransport d.count)

/-- The draws after the transport's answer. -/
def Draws.pastTransport (d : Draws) : Draws := { d with transport := d.transport.tail, count := d.count + 1 }

/-- Does the pending command complete at this status read (R80 (a))? -/
def Draws.completesNow (d : Draws) : Bool := d.completes.headD (Config.freeCompletes d.count)

/-- The draws after it. -/
def Draws.pastCompletes (d : Draws) : Draws := { d with completes := d.completes.tail, count := d.count + 1 }

/-- Does the completing erase or program succeed (R80 (b))? -/
def Draws.succeedsNow (d : Draws) : Bool := d.succeeds.headD (Config.freeSucceeds d.count)

/-- The draws after it. -/
def Draws.pastSucceeds (d : Draws) : Draws := { d with succeeds := d.succeeds.tail, count := d.count + 1 }

/-- One byte of any value (R80 (c)). -/
def Draws.byteNow (d : Draws) : Byte := d.bytes.headD (Config.freeByte d.count 0)

/-- The draws after it. -/
def Draws.pastByte (d : Draws) : Draws := { d with bytes := d.bytes.tail, count := d.count + 1 }

/-- Byte `i` of a run of any-value bytes (R80 (c)). -/
def Draws.anyByte (d : Draws) (i : Nat) : Byte := Config.freeByte d.count i

/-- The draws after such a run. -/
def Draws.pastFill (d : Draws) : Draws := { d with count := d.count + 1 }

/-- `n` bytes of any value. -/
def Draws.anyBytes (d : Draws) (n : Nat) : List Byte := (List.range n).map d.anyByte

/-! ### Any-value bytes of the device and of the buffers (spec/20_memory.md R83, R94, spec/46_read_engine.md R264) -/

/-- The bytes `[lo, lo + n)` of ARRAY become any value. -/
def State.spoilArray (s : State) (lo n : Nat) : State :=
  { s with
    dev := { s.dev with array := s.dev.array.fill lo n s.draws.anyByte }
    draws := s.draws.pastFill }

/-- The block that holds a page becomes any value (R83). -/
def State.spoilBlock (s : State) (page : Nat) : State := s.spoilArray (blockBase s.cfg page) s.cfg.blockSize

/-- A page becomes any value (R83). -/
def State.spoilPage (s : State) (page : Nat) : State := s.spoilArray (pageBase s.cfg page) s.cfg.pageSize

/-- CACHE becomes any value (R94). -/
def State.spoilCache (s : State) : State :=
  { s with
    dev := { s.dev with cache := Memory.fill [] 0 s.cfg.pageSize s.draws.anyByte }
    draws := s.draws.pastFill }

/-! ### Host buffers (spec/20_memory.md R66) -/

/-- The buffer BUF names, if there is one. -/
def State.buffer (s : State) : Option (List Byte) := s.eng.buf.bind fun h => s.host.bufs[h]?

/-- The buffer BUF names takes new contents. -/
def State.setBuffer (s : State) (b : List Byte) : State :=
  match s.eng.buf with
  | none => s
  | some h => { s with host := { s.host with bufs := s.host.bufs.set h b } }

/-- MemRead(BUF, i, n) (R14); nothing outside the buffer. -/
def State.memRead (s : State) (i n : Nat) : Option (List Byte) :=
  match s.buffer with
  | none => none
  | some b => if i + n ≤ b.length then some ((b.drop i).take n) else none

/-- MemWrite(BUF, i, |v|, v) (R14); nothing outside the buffer. -/
def State.memWrite (s : State) (i : Nat) (v : List Byte) : Option State :=
  match s.buffer with
  | none => none
  | some b =>
    if i + v.length ≤ b.length then some (s.setBuffer (b.take i ++ v ++ b.drop (i + v.length))) else none

/-- The bytes of the buffer from index `i` on become any value (R264, log entry 9). -/
def State.spoilBuffer (s : State) (i : Nat) : State :=
  match s.buffer with
  | none => s
  | some b =>
    { s.setBuffer (b.take i ++ s.draws.anyBytes (b.length - i)) with draws := s.draws.pastFill }

/-! ### Error entry and return -/

/-- `raise E` (R307): RESULT and COUNT, MAYBE_BUSY after TIMEOUT and TRANSPORT_ERROR (R309), then RESPOND. -/
def State.raise (s : State) (e : ErrorCode) : State :=
  { s with eng := { s.eng with
      result := e
      count := 0
      maybeBusy := s.eng.maybeBusy || e.leavesBusy
      pc := .respond } }

/-- `return OK` of an operation, with its count (spec/47_host_interface.md R286). -/
def State.finish (s : State) (count : Nat) : State :=
  { s with eng := { s.eng with count := count, pc := .respond } }

/-- The geometry record (R283). -/
def geometryOf (c : Config) : Geometry := ⟨c.columnSize, c.columnsPerPage, c.pagesPerBlock, c.totalSize⟩

/-- The response record (R280): the geometry is valid for GEOMETRY only. -/
def State.responseRecord (s : State) : Response where
  code := s.eng.result
  count := s.eng.count
  geometry := if s.eng.op = hostGeometry then some (geometryOf s.cfg) else none

/-- RESPOND: the response is driven to the host, then IDLE, or DEAD if it was DEAD before (R280). -/
def State.respond (s : State) : State :=
  { s with
    host := { s.host with response := some s.responseRecord }
    eng := { s.eng with pc := if s.eng.wasDead then .dead else .idle } }

/-! ### Reset and the host's moves -/

/-- Reset (spec/70_reset_and_hazards.md R340): every engine register and flag at its reset value; the configuration
and the device keep theirs. That the buffer of a READ in flight keeps the bytes it holds at that moment is a DESIGN
CHOICE (log entry 26). -/
def State.resetEngine (s : State) : State := { s with eng := Engine.reset, trace := [] }

/-- Does the host reset the engine now? -/
def State.resetNow (s : State) : Bool := s.host.moves.head? == some .reset

/-- The host's move of this engine transition is taken. Cancel sets CANCEL while a request is in flight and is ignored
otherwise (R33, R288). -/
def State.takeMove (s : State) : State :=
  { s with
    host := { s.host with moves := s.host.moves.tail }
    eng := { s.eng with
      cancel := s.eng.cancel || (s.eng.pc.inFlight && s.host.moves.head? == some .cancel) } }

end Sys2Proof.Machine
end

