-- ==== Sys2Proof/Machine/Completion.lean ====
section
/-! DEFINITION. Device completion (spec/40_spi_commands.md R140): what happens when a status read observes the end of
the pending command. -/

namespace Sys2Proof.Machine

/-- `Complete(Load(p))`: CACHE takes the page; no latch changes. -/
def State.completeLoad (s : State) (page : Nat) : State :=
  { s with dev := { s.dev with
      cache := Memory.fill [] 0 s.cfg.pageSize fun i => s.dev.array.read (pageBase s.cfg page + i)
      pending := none } }

/-- The array after an erase: the block reads ERASED_BYTE on success with BP = 0x00; otherwise it is any value
(spec/20_memory.md R81, R83, R85). -/
def State.eraseArray (s : State) (page : Nat) (ok : Bool) : State :=
  if ok && s.dev.bp == 0 then
    { s with dev := { s.dev with array := s.dev.array.clear (blockBase s.cfg page) s.cfg.blockSize } }
  else s.spoilBlock page

/-- `Complete(Erase(p))`. -/
def State.completeErase (s : State) (page : Nat) : State :=
  let ok := s.draws.succeedsNow
  let t := (State.eraseArray { s with draws := s.draws.pastSucceeds } page ok).spoilCache
  { t with dev := { t.dev with efail := !ok, wel := false, pending := none } }

/-- The array after a program (R82): an erased page takes CACHE on success with BP = 0x00; otherwise the page is any
value (R83, R85). -/
def State.programArray (s : State) (page : Nat) (ok : Bool) : State :=
  if ok && s.dev.bp == 0 && s.dev.array.isErased (pageBase s.cfg page) s.cfg.pageSize then
    { s with dev := { s.dev with
        array := s.dev.array.fill (pageBase s.cfg page) s.cfg.pageSize s.dev.cache.read } }
  else s.spoilPage page

/-- `Complete(Program(p))`. -/
def State.completeProgram (s : State) (page : Nat) : State :=
  let ok := s.draws.succeedsNow
  let t := (State.programArray { s with draws := s.draws.pastSucceeds } page ok).spoilCache
  { t with dev := { t.dev with pfail := !ok, wel := false, pending := none } }

/-- `Complete(PENDING)` (R140). -/
def State.complete (s : State) : State :=
  match s.dev.pending with
  | none => s
  | some (.load page) => s.completeLoad page
  | some (.erase page) => s.completeErase page
  | some (.program page) => s.completeProgram page

/-- Draw (a) of R80: before a status read while BUSY = 1, the pending command completes or not (R131). -/
def State.maybeComplete (s : State) : State :=
  if s.dev.busy then
    let t := { s with draws := s.draws.pastCompletes }
    if s.draws.completesNow then t.complete else t
  else s

end Sys2Proof.Machine
end

