-- ==== Sys2Proof/Machine/Spi.lean ====
section
/-! DEFINITION. The ten SPI commands (spec/40_spi_commands.md R129–R139): the device's effect and reply for each, and
the frame transaction that carries it. -/

namespace Sys2Proof.Machine

/-! ### The frame transaction (R14, R80 (d), R129) -/

/-- One call of the transport. It answers the frame with the device's bytes, or with `TransportError`, and then the
device acted on the frame or ignored it. -/
def State.transact (s : State) (device : State → List Byte × State) : State :=
  let t := { s with draws := s.draws.pastTransport }
  match s.draws.transportNow with
  | .answered => { (device t).2 with reply := .data (device t).1 }
  | .errorActed => { (device t).2 with reply := .transportError }
  | .errorIgnored => { t with reply := .transportError }

/-! ### Common device operations -/

/-- DFAULT ← 1 (spec/20_memory.md R84). -/
def State.deviceFault (s : State) : State := { s with dev := { s.dev with dfault := true } }

/-- `DevCheck(opc)` of every command but RDSR (R129): a frame while BUSY = 1 is a device fault. -/
def State.devCheck (s : State) : State := if s.dev.busy then s.deviceFault else s

/-- A reply of any value. -/
def State.answerAny (s : State) (n : Nat) : List Byte × State :=
  (s.draws.anyBytes n, { s with draws := s.draws.pastFill })

/-- The device's reply: the bytes its rule gives, or any value once DFAULT = 1 (R84). -/
def State.answer (s : State) (honest : List Byte) : List Byte × State :=
  if s.dev.dfault then s.answerAny honest.length else (honest, s)

/-- A command that sends nothing back. -/
def State.answerNothing (s : State) : List Byte × State := ([], s)

/-- A frame that is no command, or has another shape than its opcode's: a device fault, answered by any value
(R84 (e), spec/30_encoding.md R107). -/
def devReject (rx : Nat) (s : State) : List Byte × State := s.devCheck.deviceFault.answerAny rx

/-- The device starts executing a command: BUSY ← 1. -/
def State.begin (s : State) (p : Pending) : State := { s with dev := { s.dev with pending := some p } }

/-! ### The commands as the device performs them -/

/-- RDID (R130): bytes of any value; a frame of another shape than the configured one is a device fault. -/
def devRdid (dummy rx : Nat) (s : State) : List Byte × State :=
  if dummy = s.cfg.rdidDummyBytes ∧ rx = s.cfg.rdidRxLen then s.devCheck.answerAny rx else devReject rx s

/-- RDSR reg (R131). -/
def devRdsr (reg : Byte) (s : State) : List Byte × State :=
  if reg = statusReg then
    let t := s.maybeComplete
    State.answer { t with draws := t.draws.pastByte } [statusByte t.dev t.draws.byteNow]
  else if reg = protectReg then s.answer [s.dev.bp]
  else s.answerAny 1

/-- WRSR reg, value (R132). -/
def devWrsr (reg value : Byte) (s : State) : List Byte × State :=
  let t := s.devCheck
  if reg = protectReg then State.answerNothing { t with dev := { t.dev with bp := value } }
  else t.deviceFault.answerNothing

/-- WREN (R133). -/
def devWren (s : State) : List Byte × State :=
  let t := s.devCheck
  State.answerNothing { t with dev := { t.dev with wel := true } }

/-- WRDI (R134). -/
def devWrdi (s : State) : List Byte × State :=
  let t := s.devCheck
  State.answerNothing { t with dev := { t.dev with wel := false } }

/-- PRDC page (R135). -/
def devPrdc (page : Half) (s : State) : List Byte × State :=
  let t := s.devCheck
  if t.cfg.numPages ≤ page.toNat then t.deviceFault.answerNothing
  else (t.begin (.load page.toNat)).answerNothing

/-- RDC col, n (R136). -/
def devRdc (col : Half) (n : Nat) (s : State) : List Byte × State :=
  let t := s.devCheck
  if t.cfg.pageSize < col.toNat + n then t.deviceFault.answerAny n
  else t.answer (t.dev.cache.bytes col.toNat n)

/-- PLD col, data (R137): the cache bytes outside the range loaded become any value. -/
def devPld (col : Half) (data : List Byte) (s : State) : List Byte × State :=
  let t := s.devCheck
  if t.cfg.pageSize < col.toNat + data.length then t.deviceFault.answerNothing
  else
    let u := t.spoilCache
    State.answerNothing { u with dev := { u.dev with
      cache := u.dev.cache.fill col.toNat data.length fun i => data.getD i 0 } }

/-- PEX page (R139). -/
def devPex (page : Half) (s : State) : List Byte × State :=
  let t := s.devCheck
  if t.dev.wel = false ∨ t.cfg.numPages ≤ page.toNat then t.deviceFault.answerNothing
  else (t.begin (.program page.toNat)).answerNothing

/-- BERS page (R138). -/
def devBers (page : Half) (s : State) : List Byte × State :=
  let t := s.devCheck
  if t.dev.wel = false ∨ t.cfg.numPages ≤ page.toNat then t.deviceFault.answerNothing
  else (t.begin (.erase page.toNat)).answerNothing

/-! ### The meanings: one frame transaction each -/

def execRdid (dummy rx : Nat) (s : State) : Host.Outcome State Fault Refusal := .next (s.transact (devRdid dummy rx))
def execRdsr (reg : Byte) (s : State) : Host.Outcome State Fault Refusal := .next (s.transact (devRdsr reg))
def execWrsr (reg value : Byte) (s : State) : Host.Outcome State Fault Refusal :=
  .next (s.transact (devWrsr reg value))
def execWren (s : State) : Host.Outcome State Fault Refusal := .next (s.transact devWren)
def execWrdi (s : State) : Host.Outcome State Fault Refusal := .next (s.transact devWrdi)
def execPrdc (page : Half) (s : State) : Host.Outcome State Fault Refusal := .next (s.transact (devPrdc page))
def execRdc (col : Half) (n : Nat) (s : State) : Host.Outcome State Fault Refusal :=
  .next (s.transact (devRdc col n))
def execPld (col : Half) (data : List Byte) (s : State) : Host.Outcome State Fault Refusal :=
  .next (s.transact (devPld col data))
def execPex (page : Half) (s : State) : Host.Outcome State Fault Refusal := .next (s.transact (devPex page))
def execBers (page : Half) (s : State) : Host.Outcome State Fault Refusal := .next (s.transact (devBers page))

/-! ### The device takes a frame from the frame port (R100, R106, R107) -/

/-- The device's action on a frame's instruction. Host operations are in no frame (`decodeFrame_isCommand` in
Laws/Decode.lean). -/
def deviceOf (rx : Nat) (i : Instr) : State → List Byte × State :=
  match i with
  | .rdid dummy n => devRdid dummy n
  | .rdsr reg => devRdsr reg
  | .wrsr reg value => devWrsr reg value
  | .wren => devWren
  | .wrdi => devWrdi
  | .prdc page => devPrdc page
  | .rdc col n => devRdc col n
  | .pld col data => devPld col data
  | .pex page => devPex page
  | .bers page => devBers page
  | .geometry _ _ _ => devReject rx
  | .erase _ _ _ => devReject rx
  | .read _ _ _ => devReject rx
  | .write _ _ _ => devReject rx

/-- The device decodes the frame's bytes and performs the command; anything else is a device fault. -/
def deviceReceives (f : Frame) : State → List Byte × State :=
  match decodeFrame f with
  | .ok i => deviceOf f.rx i
  | .error _ => devReject f.rx

/-- `Send(tx)` (with `rx = 0`) and `Xfer(tx, rx)` of the engine (R14): the frame enters the trace (R15) and is carried
to the device; the answer stands in `reply`. -/
def State.send (s : State) (tx : List Byte) (rx : Nat) : State :=
  State.transact { s with trace := s.trace ++ [.frame tx rx] } (deviceReceives ⟨tx, rx⟩)

/-- `Wait(POLL_INTERVAL)`: a mark in the trace, no other state change (R14, spec/42_busy_wait.md R174). -/
def State.wait (s : State) : State := { s with trace := s.trace ++ [.wait] }

end Sys2Proof.Machine
end

