-- ==== Sys2Proof/Machine/Await.lean ====
section
/-! DEFINITION. The parts of the engine's sequences: the end of a unit that does not settle, the status-polling
supervisor (spec/42_busy_wait.md), the unit loop and the recovery await (spec/60_exceptions.md R310). -/

namespace Sys2Proof.Machine

/-- `pc <- p`. -/
def State.goto (s : State) (p : Pc) : State := { s with eng := { s.eng with pc := p } }

/-! ### The end of a request inside a unit -/

/-- What an ERASE, READ or WRITE leaves behind when its current unit ends unsettled: the bytes the unit addressed are
any value (spec/20_memory.md R72, R83), and so is the rest of a READ's buffer (spec/46_read_engine.md R264). Log
entries 8 and 9. -/
def State.spoilUnit (s : State) : State :=
  if s.eng.op = hostErase then s.spoilBlock s.eng.page
  else if s.eng.op = hostWrite then s.spoilPage s.eng.page
  else if s.eng.op = hostRead then
    s.spoilBuffer (sliceAt s.cfg s.eng.offset s.eng.length s.eng.unit).dst
  else s

/-- A unit that ends in TIMEOUT or TRANSPORT_ERROR ends the request (R303, spec/44_erase_engine.md R224). -/
def State.abortUnit (s : State) (e : ErrorCode) : State := s.spoilUnit.raise e

/-- CANCELLED at a unit boundary (R306); the rest of a READ's buffer is any value (R264). -/
def State.raiseCancelled (s : State) : State :=
  if s.eng.op = hostRead then s.spoilUnit.raise .cancelled else s.raise .cancelled

/-- An error before the first unit, in the recovery await or in DEAD: a READ's whole buffer is any value (log entry
9). -/
def State.raiseBeforeUnits (s : State) (e : ErrorCode) : State :=
  if s.eng.op = hostRead then (s.spoilBuffer 0).raise e else s.raise e

/-! ### The await (R171, R172) -/

/-- The start of `AwaitReady(mask)` (R171). -/
def State.startAwait (s : State) (mask : Byte) : State :=
  { s with eng := { s.eng with mask := mask, polls := 0 } }

/-- One status read of an await (R172): the byte goes to STATUS and `pc` to the polling state, or the read's
`TransportError` ends the await in `onError`. -/
def State.poll (s : State) (polling : Pc) (onError : State → State) : State :=
  let t := s.send [opcRdsr, statusReg] 1
  match t.reply with
  | .transportError => onError t
  | .data d => { t with eng := { t.eng with status := d.headD 0, polls := t.eng.polls + 1, pc := polling } }

/-! ### The unit loop (spec/44_erase_engine.md R222, R242, R262) -/

/-- The unit boundary of the operation in OP. -/
def unitBoundaryOf (op : Byte) : Pc :=
  if op = hostErase then .eUnit else if op = hostWrite then .pUnit else .rUnit

/-- The count of a successful operation (spec/47_host_interface.md R286). -/
def successCount (op : Byte) (length : Nat) : Nat := if op = hostErase then 0 else length

/-- `while UNIT < NUNITS`: the next unit, or the end of the operation. -/
def State.loopTest (s : State) : State :=
  if s.eng.unit < s.eng.nunits then s.goto (unitBoundaryOf s.eng.op)
  else s.finish (successCount s.eng.op s.eng.length)

/-- `UNIT <- 0` and the loop. -/
def State.firstUnit (s : State) : State := State.loopTest { s with eng := { s.eng with unit := 0 } }

/-- A settled unit: `pc <- ready; UNIT <- UNIT + 1`. -/
def State.unitReady (s : State) (ready : Pc) : State :=
  { s with eng := { s.eng with pc := ready, unit := s.eng.unit + 1 } }

/-- A frame of a unit that receives nothing: the next sequencer state, or the end of the request. -/
def State.unitFrame (s : State) (tx : List Byte) (next : Pc) : State :=
  let t := s.send tx 0
  match t.reply with
  | .transportError => t.abortUnit .transportError
  | .data _ => t.goto next

/-! ### Recovery (R310) -/

/-- `Recover()` begins: `pc <- RECOVER` and the await with mask 0x00. -/
def State.enterRecover (s : State) : State := (s.startAwait noMask).goto .recover

/-- A status read of the recovery await; `pc` stays RECOVER. -/
def State.pollRecover (s : State) : State := s.poll .recover fun t => t.raiseBeforeUnits .transportError

/-- One transition in RECOVER. -/
def State.seqRecover (s : State) : State :=
  if s.eng.polls = 0 then s.pollRecover
  else
    match settle s.eng s.cfg.pollLimit with
    | .ok => State.firstUnit { s with eng := { s.eng with maybeBusy := false } }
    | .failed => State.firstUnit { s with eng := { s.eng with maybeBusy := false } }
    | .timeout => s.raiseBeforeUnits .timeout
    | .again => s.wait.pollRecover

end Sys2Proof.Machine
end

