-- ==== Sys2Proof/Machine/Sequencer.lean ====
section
/-! DEFINITION. The command sequencer: one transition for each value of `pc` (spec/10_state.md R24), from the
pseudocode of spec/44_erase_engine.md R222, spec/45_program_engine.md R242, spec/46_read_engine.md R262,
spec/60_exceptions.md R305 and spec/70_reset_and_hazards.md R342; and a request run to its response. -/

namespace Sys2Proof.Machine

/-- BRINGUP: one WRSR 0xA0, 0x00, then IDLE or DEAD (R342, R344). -/
def State.seqBringup (s : State) : State :=
  let t := s.send [opcWrsr, protectReg, 0x00] 0
  match t.reply with
  | .transportError => t.goto .dead
  | .data _ => t.goto .idle

/-- The status read of a unit's await. -/
def State.pollUnit (s : State) (polling : Pc) : State := s.poll polling fun t => t.abortUnit .transportError

/-- The polling state of an erase or program unit: the settle decision on the last status byte, or the next read after
a `Wait` (R172). -/
def State.seqBusy (s : State) (polling : Pc) (settled failed : State → State) : State :=
  match settle s.eng s.cfg.pollLimit with
  | .ok => settled s
  | .failed => failed s
  | .timeout => s.abortUnit .timeout
  | .again => s.wait.pollUnit polling

/-! ### Erase units (R222) -/

def State.seqEUnit (s : State) : State :=
  if s.eng.cancel then s.raiseCancelled
  else
    State.unitFrame { s with eng := { s.eng with page := unitPage s.cfg s.eng.offset s.eng.unit } } [opcWren] .eWel

def State.seqEWel (s : State) : State := s.unitFrame (pageFrame opcBers s.eng.page) .eCmd

def State.seqECmd (s : State) : State := (s.startAwait efailMask).pollUnit .eBusy

def State.seqEBusy (s : State) : State :=
  s.seqBusy .eBusy (fun t => t.unitReady .eReady) (fun t => t.goto .eFailed)

/-! ### Program units (R242) -/

def State.seqPUnit (s : State) : State :=
  if s.eng.cancel then s.raiseCancelled
  else
    State.unitFrame
      { s with eng := { s.eng with
          page := unitPage s.cfg s.eng.offset s.eng.unit
          dst := s.eng.unit * s.cfg.pageSize } }
      [opcWren] .pWel

def State.seqPWel (s : State) : Host.Outcome State Fault Refusal :=
  match s.memRead s.eng.dst s.cfg.pageSize with
  | none => .fault .bufferDuty
  | some d => .next (s.unitFrame (opcPld :: 0x00 :: 0x00 :: d) .pLoaded)

def State.seqPLoaded (s : State) : State := s.unitFrame (pageFrame opcPex s.eng.page) .pCmd

def State.seqPCmd (s : State) : State := (s.startAwait pfailMask).pollUnit .pBusy

def State.seqPBusy (s : State) : State :=
  s.seqBusy .pBusy (fun t => t.unitReady .pReady) (fun t => t.goto .pFailed)

/-! ### Read slices (R262) -/

/-- PAGE, COL, SLEN and DST are loaded from Slice(UNIT) (R205). -/
def State.loadSlice (s : State) : State :=
  let sl := sliceAt s.cfg s.eng.offset s.eng.length s.eng.unit
  { s with eng := { s.eng with
      page := sl.page, col := sl.columnOffset, slen := sl.lengthInPage, dst := sl.dst } }

def State.seqRUnit (s : State) : State :=
  if s.eng.cancel then s.raiseCancelled
  else
    let t := s.loadSlice
    t.unitFrame (pageFrame opcPrdc t.eng.page) .rPageLoaded

def State.seqRPageLoaded (s : State) : State := (s.startAwait noMask).pollUnit .rBusy

/-- A read has no fail branch (R261): a settled status is Ready. -/
def State.seqRBusy (s : State) : State :=
  s.seqBusy .rBusy (fun t => t.goto .rReady) (fun t => t.goto .rReady)

/-- The read-from-cache frame of a settled slice, its bytes into the buffer, and the next unit. -/
def State.seqRReady (s : State) : Host.Outcome State Fault Refusal :=
  let t := s.send (readCacheFrame s.eng.col) s.eng.slen
  match t.reply with
  | .transportError => .next (t.abortUnit .transportError)
  | .data d =>
    match t.memWrite s.eng.dst d with
    | none => .fault .bufferDuty
    | some u => .next (State.loopTest { u with eng := { u.eng with unit := u.eng.unit + 1 } })

/-! ### Write-disable after a failed unit (R305) -/

def State.seqFailed (s : State) : State :=
  if s.cfg.wrdiOnFail then s.goto .wrdi else s.raise .operationFailed

def State.seqWrdi (s : State) : State :=
  let t := s.send [opcWrdi] 0
  match t.reply with
  | .transportError => State.raise { t with eng := { t.eng with maybeBusy := true } } .operationFailed
  | .data _ => t.raise .operationFailed

/-! ### The sequencer -/

/-- The transition of each sequencer state. IDLE and DEAD wait for a request. -/
def State.seq (s : State) : Host.Outcome State Fault Refusal :=
  match s.eng.pc with
  | .bringup => .next s.seqBringup
  | .idle => .next s
  | .dead => .next s
  | .recover => .next s.seqRecover
  | .eUnit => .next s.seqEUnit
  | .eWel => .next s.seqEWel
  | .eCmd => .next s.seqECmd
  | .eBusy => .next s.seqEBusy
  | .eReady => .next s.loopTest
  | .eFailed => .next s.seqFailed
  | .pUnit => .next s.seqPUnit
  | .pWel => s.seqPWel
  | .pLoaded => .next s.seqPLoaded
  | .pCmd => .next s.seqPCmd
  | .pBusy => .next s.seqPBusy
  | .pReady => .next s.loopTest
  | .pFailed => .next s.seqFailed
  | .rUnit => .next s.seqRUnit
  | .rPageLoaded => .next s.seqRPageLoaded
  | .rBusy => .next s.seqRBusy
  | .rReady => s.seqRReady
  | .wrdi => .next s.seqWrdi
  | .respond => .next s.respond

/-- One engine transition: the host's move is taken first; a reset starts the engine again (R340). -/
def State.transition (s : State) : Host.Outcome State Fault Refusal :=
  if s.resetNow then .next s.takeMove.resetEngine else s.takeMove.seq

/-- Transitions while a request is in flight, at most `fuel` of them. -/
def runInFlight (fuel : Nat) (s : State) : Host.Outcome State Fault Refusal :=
  match fuel with
  | 0 => .next s
  | n + 1 =>
    if s.eng.pc.inFlight then
      match s.transition with
      | .next t => runInFlight n t
      | .fault r => .fault r
      | .refused r => .refused r
    else .next s

/-- A bound on the transitions of a request: the recovery await, the units, the failure branch and the response
(spec/10_state.md R25 bounds its frames). -/
def State.requestFuel (s : State) : Nat := (s.eng.nunits + 1) * (s.cfg.pollLimit + 5) + 3

/-- A dispatched request is run to its response (R280). -/
def State.runRequest (s : State) : Host.Outcome State Fault Refusal := runInFlight s.requestFuel s

end Sys2Proof.Machine
end

