-- ==== Sys2Proof/Machine/Requests.lean ====
section
/-! DEFINITION. The host operations (spec/47_host_interface.md R280–R286): acceptance, the checks, the plans, and the
meanings of GEOMETRY, ERASE, READ and WRITE, each run to its response. -/

namespace Sys2Proof.Machine

/-- Acceptance of a record (R281); the frame trace is that of the new request (R15). -/
def State.accept (s : State) (r : Request) : State :=
  { s with
    eng := { s.eng with
      op := r.op
      offset := r.offset
      length := r.length
      buf := r.buf
      cancel := false
      result := .ok
      count := 0
      wasDead := s.eng.pc == .dead }
    trace := [] }

/-- Has the host passed a buffer of exactly LENGTH bytes (R287 (b))? -/
def State.bufferKept (s : State) : Bool :=
  match s.buffer with
  | none => false
  | some b => b.length == s.eng.length

/-- The units of a plan: NUNITS, then the recovery await if the device may be busy (R310), then the first unit. -/
def State.startUnits (s : State) (nunits : Nat) : State :=
  let t := { s with eng := { s.eng with nunits := nunits } }
  if t.eng.maybeBusy then t.enterRecover else t.firstUnit

/-- What follows the checks, in the order of R284, R285 and R308: a failed check, length 0, DEAD, the units. -/
def State.handle (s : State) (checks : Bool) (nunits : Nat) : State :=
  if checks = false then s.raise .invalidArgument
  else if s.eng.length = 0 then s.finish 0
  else if s.eng.wasDead then s.raiseBeforeUnits .transportError
  else s.startUnits nunits

/-- GEOMETRY request handling (R283). -/
def State.geometryOp (s : State) : State := s.finish 0

/-- ERASE request handling (R284). -/
def State.eraseOp (s : State) : State :=
  s.handle (eraseChecks s.cfg s.eng.offset s.eng.length) (spannedPages s.cfg s.eng.offset s.eng.length)

/-- READ request handling (R285). -/
def State.readOp (s : State) : State :=
  s.handle (readChecks s.cfg s.eng.offset s.eng.length) (spannedPages s.cfg s.eng.offset s.eng.length)

/-- WRITE request handling (R285). -/
def State.writeOp (s : State) : State :=
  s.handle (writeChecks s.cfg s.eng.offset s.eng.length) (programUnits s.cfg s.eng.length)

/-- A request that needs no buffer, where the engine is READY; otherwise it is held and the engine does not see it
(R281). -/
def State.serve (s : State) (r : Request) (op : State → State) : Host.Outcome State Fault Refusal :=
  if s.eng.pc.ready then (op (s.accept r)).runRequest else .next s

/-- The same for a request with a buffer: a host that passes another length than it says has no step (R287). -/
def State.serveBuffered (s : State) (r : Request) (op : State → State) : Host.Outcome State Fault Refusal :=
  if s.eng.pc.ready then
    if (s.accept r).bufferKept then (op (s.accept r)).runRequest else .fault .bufferDuty
  else .next s

/-- GEOMETRY (R283). -/
def execGeometry (offset length : Nat) (buf : Option Nat) (s : State) : Host.Outcome State Fault Refusal :=
  s.serve ⟨hostGeometry, offset, length, buf⟩ State.geometryOp

/-- ERASE offset, length (R222). -/
def execErase (offset length : Nat) (buf : Option Nat) (s : State) : Host.Outcome State Fault Refusal :=
  s.serve ⟨hostErase, offset, length, buf⟩ State.eraseOp

/-- READ offset, length (R262). -/
def execRead (offset length : Nat) (buf : Option Nat) (s : State) : Host.Outcome State Fault Refusal :=
  s.serveBuffered ⟨hostRead, offset, length, buf⟩ State.readOp

/-- WRITE offset, length (R242). -/
def execWrite (offset length : Nat) (buf : Option Nat) (s : State) : Host.Outcome State Fault Refusal :=
  s.serveBuffered ⟨hostWrite, offset, length, buf⟩ State.writeOp

/-- An op code 0x04 to 0xFF (R110, R282): INVALID_ARGUMENT, no frame. -/
def execUnassigned (r : Request) (s : State) : Host.Outcome State Fault Refusal :=
  s.serve r fun t => t.raise .invalidArgument

end Sys2Proof.Machine
end

