-- ==== Sys2Proof/Machine/Dispatch.lean ====
section
/-! DEFINITION. exec: one arm per instruction of spec/opcode_table.json. -/

namespace Sys2Proof.Machine

def exec (i : Instr) (s : State) : Host.Outcome State Fault Refusal :=
  match i with
  | .rdid dummy rx => Sys2Proof.Machine.execRdid dummy rx s
  | .rdsr reg => Sys2Proof.Machine.execRdsr reg s
  | .wrsr reg value => Sys2Proof.Machine.execWrsr reg value s
  | .wren => Sys2Proof.Machine.execWren s
  | .wrdi => Sys2Proof.Machine.execWrdi s
  | .prdc page => Sys2Proof.Machine.execPrdc page s
  | .rdc col n => Sys2Proof.Machine.execRdc col n s
  | .pld col data => Sys2Proof.Machine.execPld col data s
  | .pex page => Sys2Proof.Machine.execPex page s
  | .bers page => Sys2Proof.Machine.execBers page s
  | .geometry offset length buf => Sys2Proof.Machine.execGeometry offset length buf s
  | .erase offset length buf => Sys2Proof.Machine.execErase offset length buf s
  | .read offset length buf => Sys2Proof.Machine.execRead offset length buf s
  | .write offset length buf => Sys2Proof.Machine.execWrite offset length buf s

end Sys2Proof.Machine
end

