-- ==== Sys2Proof/Machine/Fetch.lean ====
section
/-! DEFINITION. Where the next instruction comes from: a frame on the frame port, or the record on the request port
when the engine is READY; otherwise the engine makes its next transition. -/

namespace Sys2Proof.Machine

/-- What a step does next. -/
inductive Fetched where
  /-- an instruction was taken from its port; it runs in the state given -/
  | instr (i : Instr) (s : State)
  /-- no instruction: the outcome of the step -/
  | done (o : Host.Outcome State Fault Refusal)

/-- The device takes the frame on the frame port (R100, R106); a frame that is no command is a device fault (R84
(e)). -/
def fetchFrame (s : State) (f : Frame) : Fetched :=
  let t := { s with framePort := none }
  match decodeFrame f with
  | .ok i => .instr i t
  | .error _ => .done (.next (t.transact (devReject f.rx)))

/-- The record on the request port fits its fields (R109). -/
def recordFits (c : Config) (r : Request) : Bool :=
  decide (fitsField c r.offset) && decide (fitsField c r.length)

/-- The engine is READY: it takes the record on the port, or waits (R281). -/
def fetchRequest (s : State) : Fetched :=
  match s.host.requests with
  | [] => .done (.next s)
  | r :: rest =>
    if recordFits s.cfg r then
      let t := { s with host := { s.host with requests := rest } }
      match decodeRequest r with
      | .ok i => .instr i t
      | .error _ => .done (execUnassigned r t)
    else .done (.refused .recordTooWide)

/-- The next instruction, or what happens instead of one. -/
def fetch (s : State) : Fetched :=
  if s.cfg.valid then
    match s.framePort with
    | some f => fetchFrame s f
    | none =>
      if s.eng.pc.ready && !s.resetNow then fetchRequest s.takeMove else .done s.transition
  else .done (.refused .badConfiguration)

/-- The engine as it is when bring-up is over and a request can be accepted: `pc` IDLE where it was not READY. -/
def State.madeReady (s : State) : State := if s.eng.pc.ready then s else s.goto .idle

/-- The buffer a READ or WRITE record needs: handle 0 holds exactly `length` bytes (R287 (b)). -/
def HostSide.withBuffer (h : HostSide) (r : Request) : HostSide :=
  if r.buf = none then h else { h with bufs := List.replicate r.length 0 :: h.bufs.tail }

/-- A port item put where the next step takes it. A frame stands on the frame port, and the transport answers it; a
record stands on the request port of a READY engine, with a buffer of its length for READ and WRITE, and the host
makes no other move (log entry 16). -/
def State.place (s : State) (item : PortItem) : State :=
  match item with
  | .frame f =>
    { s with framePort := some f, draws := { s.draws with transport := .answered :: s.draws.transport } }
  | .request r =>
    let t := s.madeReady
    { t with
      framePort := none
      host := { t.host.withBuffer r with requests := r :: t.host.requests, moves := [] } }

end Sys2Proof.Machine
end

