-- ==== Sys2Proof/Machine/Step.lean ====
section
/-! DEFINITION. One step of the machine, and the placing of an instruction where the next step takes it. -/

namespace Sys2Proof.Machine

/-- One step: the fetched instruction runs, or what happens instead of one. -/
def step (s : State) : Host.Outcome State Fault Refusal :=
  match fetch s with
  | .instr i t => exec i t
  | .done o => o

/-- The state with the instruction of an opcode-table word put where `step` takes it next (log entries 15, 16). -/
def State.withFetchWord (s : State) (nbits w : Nat) : State := s.place (tableItem nbits w)

end Sys2Proof.Machine
end

