-- ==== Sys2Proof/Safety.lean ====
section
/-! DEFINITION. What counts as a safe run, in the terms claims use: no device fault (spec/60_exceptions.md R320), the
canonical form of the byte stores, the launch premises (spec/70_reset_and_hazards.md R343), and the protocol between
engine and device that the sequencer keeps (R350–R353). -/

namespace Sys2Proof

/-- A frame with its opcode's shape and 0x00 in the fixed places (spec/30_encoding.md R101, R102, R105). An RDID frame
has the configured shape (R108). -/
def Frame.HasItsShape (c : Config) (f : Frame) : Prop :=
  (f.rx = 0 ∧ (f.tx = [0x06] ∨ f.tx = [0x04])) ∨
  (f.rx = 1 ∧ ∃ reg, f.tx = [0x05, reg]) ∨
  (f.rx = 0 ∧ ∃ reg value, f.tx = [0x01, reg, value]) ∨
  (f.rx = 0 ∧ ∃ opc hi lo, opc ∈ ([0x13, 0x10, 0xD8] : List Byte) ∧ f.tx = [opc, 0x00, hi, lo]) ∨
  (1 ≤ f.rx ∧ ∃ hi lo, f.tx = [0x03, hi, lo, 0x00]) ∨
  (f.rx = 0 ∧ ∃ hi lo data, f.tx = 0x02 :: hi :: lo :: data) ∨
  (f.rx = c.rdidRxLen ∧ f.tx = 0x9F :: List.replicate c.rdidDummyBytes 0x00)

/-- A frame that is no command of the device: condition (e) of spec/20_memory.md R84. -/
def Frame.Malformed (c : Config) (f : Frame) : Prop := ¬ f.HasItsShape c

end Sys2Proof

namespace Sys2Proof.Machine

/-- The byte stores are in canonical form. -/
def State.CanonicalMemory (s : State) : Prop := s.dev.array.wf ∧ s.dev.cache.wf

/-- A faulted state: DFAULT = 1 (R46). The run it belongs to satisfies no claim (R320). -/
def State.Faulted (s : State) : Prop := s.dev.dfault = true

/-- How a run stands. -/
inductive Verdict where
  /-- the device marked a broken protocol: the run is never final and satisfies no claim (R320) -/
  | faulted
  /-- the engine is READY: every request accepted so far is answered (R34) -/
  | final
  /-- bring-up or a request goes on -/
  | running
deriving DecidableEq, Repr

/-- How the run that has reached this state stands. R320 puts faulted first; what is final beside that is the model's
choice (log entry 27). -/
def State.verdict (s : State) : Verdict :=
  if s.dev.dfault then .faulted else if s.eng.pc.ready then .final else .running

/-- The run that has reached this state satisfies the claim: a faulted one satisfies none (R320). -/
def State.Satisfies (s : State) (claim : State → Prop) : Prop := s.verdict ≠ .faulted ∧ claim s

/-- The host never resets while this run lasts: a reset with a busy device breaks launch premise R343 (b). -/
def State.NoReset (s : State) : Prop := HostMove.reset ∉ s.host.moves

/-- The launch premises (R343) as they stand at any moment before bring-up: a valid configuration, an idle device
with DFAULT = 0, only this engine on the frame port. -/
structure State.LaunchPremises (s : State) : Prop where
  config : s.cfg.valid = true
  idle : s.dev.busy = false
  noFault : s.dev.dfault = false
  onlyEngine : s.framePort = none

/-- The checks the request in the registers has to pass (spec/43_address_translator.md R191, R194, R198). -/
def State.checksPass (s : State) : Bool :=
  if s.eng.op = hostErase then eraseChecks s.cfg s.eng.offset s.eng.length
  else if s.eng.op = hostWrite then writeChecks s.cfg s.eng.offset s.eng.length
  else if s.eng.op = hostRead then readChecks s.cfg s.eng.offset s.eng.length
  else false

/-- The number of units of the request in the registers (R195, R199, R203). -/
def State.plannedUnits (s : State) : Nat :=
  if s.eng.op = hostWrite then programUnits s.cfg s.eng.length
  else spannedPages s.cfg s.eng.offset s.eng.length

/-- The plan of a request that sends frames stands in the registers. -/
structure State.Planned (s : State) : Prop where
  checks : s.checksPass = true
  nonempty : 0 < s.eng.length
  units : s.eng.nunits = s.plannedUnits

/-- The operation whose units a sequencer state belongs to (R24). -/
def Pc.operation (p : Pc) : Option Byte :=
  match p with
  | .eUnit => some hostErase
  | .eWel => some hostErase
  | .eCmd => some hostErase
  | .eBusy => some hostErase
  | .eReady => some hostErase
  | .eFailed => some hostErase
  | .pUnit => some hostWrite
  | .pWel => some hostWrite
  | .pLoaded => some hostWrite
  | .pCmd => some hostWrite
  | .pBusy => some hostWrite
  | .pReady => some hostWrite
  | .pFailed => some hostWrite
  | .rUnit => some hostRead
  | .rPageLoaded => some hostRead
  | .rBusy => some hostRead
  | .rReady => some hostRead
  | .bringup => none
  | .idle => none
  | .dead => none
  | .recover => none
  | .wrdi => none
  | .respond => none

/-- When the engine knows the device to be idle, it is (R350). A `*_CMD` state and `R_PAGELOADED` have just started
a command; a polling state knows it from a status byte with the busy bit clear; between requests MAYBE_BUSY tells
(R32). -/
def State.DeviceIdleWhenKnown (s : State) : Prop :=
  match s.eng.pc with
  | .eCmd => True
  | .pCmd => True
  | .rPageLoaded => True
  | .eBusy => busyBit s.eng.status = false → s.dev.busy = false
  | .pBusy => busyBit s.eng.status = false → s.dev.busy = false
  | .rBusy => busyBit s.eng.status = false → s.dev.busy = false
  | .recover => s.eng.polls ≠ 0 → busyBit s.eng.status = false → s.dev.busy = false
  | .idle => s.eng.maybeBusy = false → s.dev.busy = false
  | .respond => s.eng.maybeBusy = false ∨ s.eng.wasDead = true → s.dev.busy = false
  | _ => s.dev.busy = false

/-- What each sequencer state has prepared for its frame: WEL set and a page of the device (R351, R352), or a slice
that fits the page (R353, spec/20_memory.md R70). -/
def State.FrameReady (s : State) : Prop :=
  match s.eng.pc with
  | .eWel => s.dev.wel = true ∧ s.eng.page < s.cfg.numPages
  | .pWel => s.dev.wel = true ∧ s.eng.page < s.cfg.numPages
  | .pLoaded => s.dev.wel = true ∧ s.eng.page < s.cfg.numPages
  | .rPageLoaded => 1 ≤ s.eng.slen ∧ s.eng.col + s.eng.slen ≤ s.cfg.pageSize
  | .rBusy => 1 ≤ s.eng.slen ∧ s.eng.col + s.eng.slen ≤ s.cfg.pageSize
  | .rReady => 1 ≤ s.eng.slen ∧ s.eng.col + s.eng.slen ≤ s.cfg.pageSize
  | _ => True

/-- The plan stands while a request that sends frames runs, its unit in progress is one of the plan, and the engine
is not DEAD. -/
structure State.PlanStands (s : State) : Prop where
  recovering : s.eng.pc = .recover → s.Planned ∧ s.eng.wasDead = false
  running : ∀ op, s.eng.pc.operation = some op → s.eng.op = op ∧ s.Planned ∧ s.eng.wasDead = false
  inPlan : s.eng.pc.operation ≠ none → s.eng.pc ≠ .eReady → s.eng.pc ≠ .pReady → s.eng.unit < s.eng.nunits

/-- The protocol the engine keeps with the device while nobody but the engine sends frames and nobody resets it. -/
structure State.Protocol (s : State) : Prop where
  config : s.cfg.valid = true
  onlyEngine : s.framePort = none
  noReset : s.NoReset
  noFault : s.dev.dfault = false
  idleWhenKnown : s.DeviceIdleWhenKnown
  frameReady : s.FrameReady
  planStands : s.PlanStands

/-- Everything but the device, its draws and the transport's answer is the same. -/
structure State.SameEngine (s t : State) : Prop where
  cfg : t.cfg = s.cfg
  eng : t.eng = s.eng
  host : t.host = s.host
  framePort : t.framePort = s.framePort
  trace : t.trace = s.trace

/-- Everything but the engine's registers, the trace and the host's side is the same: no frame was sent. -/
structure State.SameDevice (s t : State) : Prop where
  cfg : t.cfg = s.cfg
  dev : t.dev = s.dev
  framePort : t.framePort = s.framePort
  reply : t.reply = s.reply

/-- The device and transport behave as in the spec's plain examples (spec/95_test_vectors.md V-E1, V-P1, W1): the
next `frames` frames are answered, and the next `commands` pending commands complete, with success, at their first
status read. -/
structure State.Smooth (s : State) (frames commands : Nat) : Prop where
  transport : ∀ k < frames, s.draws.transport[k]? = some .answered
  completes : ∀ k < commands, s.draws.completes[k]? = some true
  succeeds : ∀ k < commands, s.draws.succeeds[k]? = some true

/-- The frames of a trace (R15), without the `Wait` marks. -/
def framesOf (trace : List TraceEvent) : List Frame :=
  trace.filterMap fun e =>
    match e with
    | .frame tx rx => some ⟨tx, rx⟩
    | .wait => none

end Sys2Proof.Machine
end

