-- ==== Sys2Proof/Certificates/Slice0/Obligations.lean ====
section
/-! DEFINITION. The statements for the provers, from the numbered rules of spec/. -/

open Sys2Proof Sys2Proof.Machine

/-! ### Encoding -/

/-- R101, R104, R106, R109: decoding an encoded well-formed instruction gives it back. -/
def Obligations.DecodeOfEncodeIsIdentity : Prop :=
  ∀ (c : Config) (i : Instr), wellFormed c i → decode (encode i) = .ok i

/-- R101, R105, R106: a port item has one meaning, and encoding it gives every one of its bytes back. -/
def Obligations.EncodeOfDecodeIsIdentity : Prop :=
  ∀ (item : PortItem) (i : Instr), decode item = .ok i → encode i = item

/-- The words of spec/95_test_vectors.md table 2.1 (E1 to E17), and the four host codes of R109. -/
def Obligations.SpecWordsDecode : Prop :=
  decodeFrame ⟨[0x05, 0xC0], 1⟩ = .ok (.rdsr 0xC0) ∧
  decodeFrame ⟨[0x01, 0xA0, 0x00], 0⟩ = .ok (.wrsr 0xA0 0x00) ∧
  decodeFrame ⟨[0x06], 0⟩ = .ok .wren ∧
  decodeFrame ⟨[0x04], 0⟩ = .ok .wrdi ∧
  decodeFrame ⟨[0x13, 0x00, 0x12, 0x34], 0⟩ = .ok (.prdc 4660) ∧
  decodeFrame ⟨[0x03, 0x03, 0xB8, 0x00], 1096⟩ = .ok (.rdc 952 1096) ∧
  decodeFrame ⟨[0x02, 0x00, 0x00, 0xA5], 0⟩ = .ok (.pld 0 [0xA5]) ∧
  decodeFrame ⟨[0x10, 0x00, 0xFF, 0xFF], 0⟩ = .ok (.pex 65535) ∧
  decodeFrame ⟨[0xD8, 0x00, 0xFF, 0xC0], 0⟩ = .ok (.bers 65472) ∧
  decodeRequest ⟨0x00, 0, 0, none⟩ = .ok (.geometry 0 0 none) ∧
  decodeRequest ⟨0x01, 0, 131072, none⟩ = .ok (.erase 0 131072 none) ∧
  decodeRequest ⟨0x02, 3000, 1500, some 0⟩ = .ok (.read 3000 1500 (some 0)) ∧
  decodeRequest ⟨0x03, 0, 2048, some 0⟩ = .ok (.write 0 2048 (some 0))

/-- R104: page and column fields travel as two bytes, high byte first, neither scaled nor shifted. -/
def Obligations.AddressFieldsTravelHighByteFirst : Prop :=
  ∀ (h : Half) (n : Nat) (d : List Byte),
    let hi : Byte := BitVec.ofNat 8 (h.toNat / 256)
    let lo : Byte := BitVec.ofNat 8 (h.toNat % 256)
    encode (.prdc h) = .frame ⟨[0x13, 0x00, hi, lo], 0⟩ ∧
    encode (.pex h) = .frame ⟨[0x10, 0x00, hi, lo], 0⟩ ∧
    encode (.bers h) = .frame ⟨[0xD8, 0x00, hi, lo], 0⟩ ∧
    encode (.rdc h n) = .frame ⟨[0x03, hi, lo, 0x00], n⟩ ∧
    encode (.pld h d) = .frame ⟨0x02 :: hi :: lo :: d, 0⟩

/-! ### One step -/

/-- A step runs the instruction of the frame on the frame port (R100, R106). That a frame the engine did not send can
stand there, and that a step takes it, is the model's choice (log entry 16). -/
def Obligations.StepRunsTheFrameOnThePort : Prop :=
  ∀ (s : State) (f : Frame) (i : Instr),
    s.cfg.valid = true → s.framePort = some f → decodeFrame f = .ok i →
    step s = exec i { s with framePort := none }

/-- R281: a step of a READY engine runs the instruction of the record on the request port. The step takes the record
and the host's move; a cancel is ignored (R33). -/
def Obligations.StepRunsTheRequestOnThePort : Prop :=
  ∀ (s : State) (r : Request) (rest : List Request) (i : Instr),
    s.cfg.valid = true → s.framePort = none → s.eng.pc.ready = true → s.resetNow = false →
    s.host.requests = r :: rest → r.offset < 2 ^ s.cfg.addrWidth → r.length < 2 ^ s.cfg.addrWidth →
    decodeRequest r = .ok i →
    step s = exec i { s with host := { s.host with requests := rest, moves := s.host.moves.tail } }

/-- R24, R281, R340: with nothing on the frame port, an engine that is not READY or that the host resets makes its next
transition, whatever record is on the request port; a READY engine with no record on its port waits. -/
def Obligations.StepOtherwiseMovesTheEngine : Prop :=
  ∀ s : State, s.cfg.valid = true → s.framePort = none →
    (s.eng.pc.ready = false → step s = s.transition) ∧
    (s.eng.pc.ready = true → s.resetNow = true → step s = s.transition) ∧
    (s.eng.pc.ready = true → s.resetNow = false → s.host.requests = [] →
      step s = .next { s with host := { s.host with moves := s.host.moves.tail } })

/-- What a step refuses by name: a configuration that breaks R10, and a record whose offset or length does not fit the
ADDR_WIDTH bits of the port (R109), which is the model's choice (log entry 17). -/
def Obligations.StepRefusalsAreNamed : Prop :=
  (∀ s : State, s.cfg.valid = false → step s = .refused .badConfiguration) ∧
  (∀ (s : State) (r : Request) (rest : List Request),
    s.cfg.valid = true → s.framePort = none → s.eng.pc.ready = true → s.resetNow = false →
    s.host.requests = r :: rest → 2 ^ s.cfg.addrWidth ≤ r.offset ∨ 2 ^ s.cfg.addrWidth ≤ r.length →
    step s = .refused .recordTooWide)

/-- R84 (e), R100, R101, R102, R107: a malformed frame (no byte at all, an unassigned opcode, another shape than its
opcode's, a nonzero fixed byte) and every frame the decoder rejects is a device fault. That nothing else of the device
changes is log entry 14, and that such a frame can stand on the port log entry 16. -/
def Obligations.MalformedFramesAreDeviceFaults : Prop :=
  ∀ (s : State) (f : Frame),
    s.cfg.valid = true → s.framePort = some f → s.draws.transportNow ≠ .errorIgnored →
    f.Malformed s.cfg ∨ (∃ e, decodeFrame f = .error e) →
    ∃ t, step s = .next t ∧ t.dev = { s.dev with dfault := true }

/-! ### SPI commands -/

/-- R20, R73: no SPI command changes anything but the device, its draws and the transport's answer, and every one of
them is answered. -/
def Obligations.SpiCommandsLeaveTheEngine : Prop :=
  ∀ (s : State) (i : Instr), i.isCommand = true → ∃ t, exec i s = .next t ∧ State.SameEngine s t

/-- R89, R140: of the SPI commands, only a status read of register 0xC0 changes ARRAY. (The engine's own transitions
make the bytes of an unsettled unit any value, log entry 8.) -/
def Obligations.OnlyRdsrOfTheSpiCommandsChangesTheArray : Prop :=
  ∀ (s : State) (i : Instr), i.isCommand = true → i ≠ .rdsr statusReg →
    ∃ t, exec i s = .next t ∧ ∀ a, t.dev.array.read a = s.dev.array.read a

/-- R80 (d), R129: the two transport errors. A frame the device did not act on leaves it as it was; one it acted on
leaves it, and everything but the reply, as the same frame does where it is answered. -/
def Obligations.TransportErrorsHideOnlyTheReply : Prop :=
  ∀ (s : State) (i : Instr), i.isCommand = true →
    (s.draws.transportNow = .errorIgnored →
      ∃ t, exec i s = .next t ∧ t.dev = s.dev ∧ t.reply = .transportError) ∧
    (s.draws.transportNow = .errorActed →
      ∃ t, exec i { s with draws := { s.draws with transport := .answered :: s.draws.transport.tail } } = .next t ∧
        t.reply ≠ .transportError ∧ exec i s = .next { t with reply := .transportError })

/-- R130: RDID answers with RDID_RX_LEN bytes of any value and changes nothing. -/
def Obligations.RdidAnswersItsBytes : Prop :=
  ∀ s : State, s.draws.transportNow = .answered → s.dev.busy = false →
    ∃ t bytes, exec (.rdid s.cfg.rdidDummyBytes s.cfg.rdidRxLen) s = .next t ∧
      t.reply = .data bytes ∧ bytes.length = s.cfg.rdidRxLen ∧ t.dev = s.dev ∧ State.SameEngine s t

/-- R133, R134: WREN sets WEL and WRDI clears it, and nothing else changes. While BUSY = 1 either is a device fault
(R129); that the latch is written then too, and nothing else changes, is log entry 14. -/
def Obligations.WrenAndWrdiWriteTheLatch : Prop :=
  ∀ s : State, s.draws.transportNow = .answered →
    (∃ t, exec .wren s = .next t ∧ t.reply = .data [] ∧ State.SameEngine s t ∧
      t.dev = { s.dev with wel := true, dfault := s.dev.dfault || s.dev.busy }) ∧
    (∃ t, exec .wrdi s = .next t ∧ t.reply = .data [] ∧ State.SameEngine s t ∧
      t.dev = { s.dev with wel := false, dfault := s.dev.dfault || s.dev.busy })

/-- R132: WRSR writes BP through register 0xA0; any other register is a device fault. -/
def Obligations.WrsrWritesTheProtectionRegister : Prop :=
  ∀ (s : State) (reg value : Byte), s.draws.transportNow = .answered → s.dev.busy = false →
    ∃ t, exec (.wrsr reg value) s = .next t ∧ t.reply = .data [] ∧ State.SameEngine s t ∧
      (reg = 0xA0 → t.dev = { s.dev with bp := value }) ∧
      (reg ≠ 0xA0 → t.dev = { s.dev with dfault := true })

/-- R131, R35: a status read at which no command completes shows BUSY, EFAIL and PFAIL in bits 0, 2 and 3, and changes
no device state. -/
def Obligations.StatusReadShowsTheLatches : Prop :=
  ∀ s : State, s.draws.transportNow = .answered → s.dev.dfault = false →
    (s.dev.busy = true → s.draws.completes.head? = some false) →
    ∃ t b, exec (.rdsr 0xC0) s = .next t ∧ t.reply = .data [b] ∧ t.dev = s.dev ∧ State.SameEngine s t ∧
      b.getLsbD 0 = s.dev.busy ∧ b.getLsbD 2 = s.dev.efail ∧ b.getLsbD 3 = s.dev.pfail

/-- R131, R73: a read of register 0xA0 answers BP; a read of any register but 0xC0 changes no device state. -/
def Obligations.OtherRegisterReads : Prop :=
  ∀ (s : State) (reg : Byte), s.draws.transportNow = .answered → reg ≠ 0xC0 →
    ∃ t b, exec (.rdsr reg) s = .next t ∧ t.reply = .data [b] ∧ t.dev = s.dev ∧ State.SameEngine s t ∧
      (reg = 0xA0 → s.dev.dfault = false → b = s.dev.bp)

/-- R140, R41: a completing page-read-to-cache fills CACHE from the page; the status byte shows the device idle. -/
def Obligations.LoadFillsTheCache : Prop :=
  ∀ (s : State) (p : Nat), s.draws.transportNow = .answered → s.dev.pending = some (.load p) →
    s.draws.completes.head? = some true →
    ∃ t, exec (.rdsr 0xC0) s = .next t ∧ State.SameEngine s t ∧
      (∀ c < s.cfg.pageSize, t.dev.cache.read c = s.dev.array.read (p * s.cfg.pageSize + c)) ∧
      t.dev = { s.dev with cache := t.dev.cache, pending := none } ∧
      (s.dev.dfault = false → ∃ b, t.reply = .data [b] ∧ b.getLsbD 0 = false)

/-- R140, R81, R83, R85: a completing block-erase clears WEL and BUSY and writes EFAIL; on success with BP = 0x00 every
byte of the page's block reads 0xFF; no byte outside the block changes. -/
def Obligations.EraseCompletionErasesTheBlock : Prop :=
  ∀ (s : State) (p : Nat) (ok : Bool), s.draws.transportNow = .answered → s.dev.pending = some (.erase p) →
    s.draws.completes.head? = some true → s.draws.succeeds.head? = some ok →
    ∃ t, exec (.rdsr 0xC0) s = .next t ∧ State.SameEngine s t ∧
      t.dev = { s.dev with
        array := t.dev.array, cache := t.dev.cache, pending := none, wel := false, efail := !ok } ∧
      (ok = true → s.dev.bp = 0x00 → ∀ a, p / s.cfg.pagesPerBlock * s.cfg.blockSize ≤ a →
        a < p / s.cfg.pagesPerBlock * s.cfg.blockSize + s.cfg.blockSize → t.dev.array.read a = 0xFF) ∧
      (∀ a, ¬ (p / s.cfg.pagesPerBlock * s.cfg.blockSize ≤ a ∧
        a < p / s.cfg.pagesPerBlock * s.cfg.blockSize + s.cfg.blockSize) →
        t.dev.array.read a = s.dev.array.read a)

/-- R140, R82, R83, R85: a completing program clears WEL and BUSY and writes PFAIL; on success with BP = 0x00 an erased
page takes the cache; no byte outside the page changes. -/
def Obligations.ProgramCompletionStoresTheCache : Prop :=
  ∀ (s : State) (p : Nat) (ok : Bool), s.draws.transportNow = .answered → s.dev.pending = some (.program p) →
    s.draws.completes.head? = some true → s.draws.succeeds.head? = some ok →
    ∃ t, exec (.rdsr 0xC0) s = .next t ∧ State.SameEngine s t ∧
      t.dev = { s.dev with
        array := t.dev.array, cache := t.dev.cache, pending := none, wel := false, pfail := !ok } ∧
      (ok = true → s.dev.bp = 0x00 →
        (∀ c < s.cfg.pageSize, s.dev.array.read (p * s.cfg.pageSize + c) = 0xFF) →
        ∀ c < s.cfg.pageSize, t.dev.array.read (p * s.cfg.pageSize + c) = s.dev.cache.read c) ∧
      (∀ a, ¬ (p * s.cfg.pageSize ≤ a ∧ a < p * s.cfg.pageSize + s.cfg.pageSize) →
        t.dev.array.read a = s.dev.array.read a)

/-- R135, R138, R139: to an idle device, PRDC of a page of the device starts a load, and PEX and BERS with WEL = 1 a
program and an erase; nothing else of the device changes. -/
def Obligations.PageCommandsStartTheDevice : Prop :=
  ∀ (s : State) (page : Half), s.draws.transportNow = .answered → s.dev.busy = false →
    page.toNat < s.cfg.numPages →
    (∃ t, exec (.prdc page) s = .next t ∧ t.reply = .data [] ∧ State.SameEngine s t ∧
      t.dev = { s.dev with pending := some (.load page.toNat) }) ∧
    (s.dev.wel = true →
      (∃ t, exec (.pex page) s = .next t ∧ t.reply = .data [] ∧ State.SameEngine s t ∧
        t.dev = { s.dev with pending := some (.program page.toNat) }) ∧
      (∃ t, exec (.bers page) s = .next t ∧ t.reply = .data [] ∧ State.SameEngine s t ∧
        t.dev = { s.dev with pending := some (.erase page.toNat) }))

/-- R136, R68: a read-from-cache answers the cache bytes in increasing column order and changes no device state. -/
def Obligations.RdcAnswersTheCache : Prop :=
  ∀ (s : State) (col : Half) (n : Nat), s.draws.transportNow = .answered → s.dev.busy = false →
    s.dev.dfault = false → 1 ≤ n → col.toNat + n ≤ s.cfg.pageSize →
    ∃ t bytes, exec (.rdc col n) s = .next t ∧ t.reply = .data bytes ∧ bytes.length = n ∧
      (∀ i < n, bytes[i]? = some (s.dev.cache.read (col.toNat + i))) ∧ t.dev = s.dev ∧ State.SameEngine s t

/-- R137, R68: a program-load writes its data to the cache in increasing column order; array and latches keep their
values. -/
def Obligations.PldLoadsTheCache : Prop :=
  ∀ (s : State) (col : Half) (data : List Byte), s.draws.transportNow = .answered → s.dev.busy = false →
    col.toNat + data.length ≤ s.cfg.pageSize →
    ∃ t, exec (.pld col data) s = .next t ∧ t.reply = .data [] ∧ State.SameEngine s t ∧
      (∀ i (h : i < data.length), t.dev.cache.read (col.toNat + i) = data[i]) ∧
      t.dev = { s.dev with cache := t.dev.cache }

/-- R84 (a) to (d), (f): the device fault conditions, each for a frame the device acts on. -/
def Obligations.DeviceFaultConditions : Prop :=
  ∀ s : State, s.draws.transportNow ≠ .errorIgnored →
    (s.dev.busy = true → ∀ i, i.isCommand = true → (∀ reg, i ≠ .rdsr reg) →
      ∃ t, exec i s = .next t ∧ t.dev.dfault = true) ∧
    (s.dev.wel = false → ∀ page,
      (∃ t, exec (.bers page) s = .next t ∧ t.dev.dfault = true) ∧
      (∃ t, exec (.pex page) s = .next t ∧ t.dev.dfault = true)) ∧
    (∀ page : Half, s.cfg.numPages ≤ page.toNat →
      (∃ t, exec (.prdc page) s = .next t ∧ t.dev.dfault = true) ∧
      (∃ t, exec (.bers page) s = .next t ∧ t.dev.dfault = true) ∧
      (∃ t, exec (.pex page) s = .next t ∧ t.dev.dfault = true)) ∧
    (∀ (col : Half) (n : Nat), s.cfg.pageSize < col.toNat + n →
      ∃ t, exec (.rdc col n) s = .next t ∧ t.dev.dfault = true) ∧
    (∀ (col : Half) (data : List Byte), s.cfg.pageSize < col.toNat + data.length →
      ∃ t, exec (.pld col data) s = .next t ∧ t.dev.dfault = true) ∧
    (∀ reg value, reg ≠ 0xA0 → ∃ t, exec (.wrsr reg value) s = .next t ∧ t.dev.dfault = true)

/-! ### Whole-machine rules -/

/-- R46: DFAULT is sticky; no step clears it. -/
def Obligations.DeviceFaultIsSticky : Prop :=
  ∀ s t : State, step s = .next t → s.Faulted → t.Faulted

/-- R320, R46: a faulted run stays faulted. Whatever instruction runs, and after any number of steps, the state reached
is not final and satisfies no claim, a GEOMETRY answered with DFAULT = 1 included; and the response does not show DFAULT.
What is final beside that is log entry 27. -/
def Obligations.FaultedRunsSatisfyNoClaim : Prop :=
  (∀ (n : Nat) (s t : State), s.Faulted → core.run n s = .next t →
    t.verdict = .faulted ∧ t.verdict ≠ .final ∧ ∀ claim, ¬ t.Satisfies claim) ∧
  (∀ (s t : State) (i : Instr), s.Faulted → exec i s = .next t →
    t.verdict = .faulted ∧ t.verdict ≠ .final ∧ ∀ claim, ¬ t.Satisfies claim) ∧
  ∀ (s : State) (d : Bool),
    State.responseRecord { s with dev := { s.dev with dfault := d } } = s.responseRecord

/-- R8: no step writes the configuration. -/
def Obligations.NoStepWritesTheConfiguration : Prop :=
  ∀ s t : State, step s = .next t → t.cfg = s.cfg

/-- R62, log entry 1: every step keeps the byte stores in canonical form. -/
def Obligations.StepKeepsCanonicalMemory : Prop :=
  ∀ s t : State, s.CanonicalMemory → step s = .next t → t.CanonicalMemory

/-- R84, R350 to R353: while only the engine sends frames and nobody resets it, every step keeps the protocol; the
engine never produces a device fault. -/
def Obligations.StepKeepsTheProtocol : Prop :=
  ∀ s t : State, s.Protocol → step s = .next t → t.Protocol

/-- R343, R50: a launch that meets the premises meets the protocol, and the machine right after reset meets both
invariants: the protocol and the canonical form of its byte stores. The clauses about `State.reset` rest on the model's
reset values: empty stores (log entry 1), no frame on the port (log entry 3), an idle device (log entry 5) and empty
host lists (log entry 6). -/
def Obligations.LaunchMeetsTheInvariants : Prop :=
  (∀ s : State, s.LaunchPremises → s.NoReset → s.eng = State.reset.eng → s.Protocol) ∧
  State.reset.Protocol ∧ State.reset.CanonicalMemory

/-- R340, R50: a reset gives every engine register and flag the reset value listed here, and leaves the configuration
and the device as they are; `State.reset` has the same engine. The model's own `wasDead` (log entry 3) is not said. -/
def Obligations.ResetRestartsTheEngine : Prop :=
  let fresh (wasDead : Bool) : Engine :=
    { pc := .bringup, op := 0, offset := 0, length := 0, buf := none, unit := 0, nunits := 0, page := 0, col := 0,
      slen := 0, dst := 0, polls := 0, status := 0, mask := 0, result := .ok, count := 0, maybeBusy := false,
      cancel := false, wasDead := wasDead }
  (∀ s : State, s.resetNow = true →
    ∃ t, s.transition = .next t ∧ t.eng = fresh t.eng.wasDead ∧ t.cfg = s.cfg ∧ t.dev = s.dev) ∧
  State.reset.eng = fresh State.reset.eng.wasDead

/-- R342, R132, R345: bring-up sends exactly one frame, WRSR 0xA0, 0x00; it ends in DEAD after a transport error and in
IDLE otherwise, with BP = 0x00. To a device that is busy the frame is a device fault (R84 (a)); that it clears BP then
too is log entry 14. -/
def Obligations.BringUpClearsProtection : Prop :=
  ∀ s : State, s.eng.pc = .bringup → s.resetNow = false →
    ∃ t, s.transition = .next t ∧ t.trace = s.trace ++ [.frame [0x01, 0xA0, 0x00] 0] ∧
      t.dev.busy = s.dev.busy ∧
      (t.reply = .transportError → t.eng.pc = .dead) ∧
      (t.reply ≠ .transportError →
        t.eng.pc = .idle ∧ t.dev.bp = 0x00 ∧ t.dev.dfault = (s.dev.dfault || s.dev.busy))

/-- R309: a transition sets MAYBE_BUSY exactly where it ends the request in TIMEOUT or TRANSPORT_ERROR, or where the
write-disable meets a transport error. So a request that begins with MAYBE_BUSY = 0 ends with it set exactly when its
result is TIMEOUT or TRANSPORT_ERROR, or OPERATION_FAILED with a transport error of its last frame, the write-disable;
and no SPI command sets it. That a request answered TRANSPORT_ERROR in DEAD sets it too is log entry 12. -/
def Obligations.MaybeBusyIsSetOnlyByUnsettledEnds : Prop :=
  (∀ s t : State, s.transition = .next t → s.eng.result = .ok → s.eng.maybeBusy = false →
    (t.eng.maybeBusy = true ↔
      t.eng.result = .timeout ∨ t.eng.result = .transportError ∨
        (s.eng.pc = .wrdi ∧ s.resetNow = false ∧ t.reply = .transportError))) ∧
  (∀ (s t : State) (i : Instr), s.cfg.valid = true → s.eng.pc.ready = true → s.NoReset → i.isCommand = false →
    s.eng.maybeBusy = false → exec i s = .next t →
    (t.eng.maybeBusy = true ↔
      t.eng.result = .timeout ∨ t.eng.result = .transportError ∨
        (t.eng.result = .operationFailed ∧ t.reply = .transportError))) ∧
  (∀ (s t : State) (i : Instr), i.isCommand = true → exec i s = .next t → t.eng.maybeBusy = s.eng.maybeBusy)

/-- R33, R288, R306, R355: a request ends in CANCELLED from a unit boundary with CANCEL set, and only from there; then no
frame is sent and the device and MAYBE_BUSY keep their state. A cancel that arrives in flight anywhere sets CANCEL, which
every transition keeps; one that arrives out of flight is ignored, and acceptance clears CANCEL. -/
def Obligations.CancelTakesEffectExactlyAtUnitBoundaries : Prop :=
  (∀ s : State, s.eng.pc = .eUnit ∨ s.eng.pc = .pUnit ∨ s.eng.pc = .rUnit → s.resetNow = false →
    s.eng.cancel = true ∨ s.host.moves.head? = some .cancel →
    ∃ t, s.transition = .next t ∧ t.eng.result = .cancelled ∧ t.eng.count = 0 ∧ t.eng.pc = .respond ∧
      t.trace = s.trace ∧ t.dev = s.dev ∧ t.eng.maybeBusy = s.eng.maybeBusy) ∧
  (∀ s t : State, s.transition = .next t → s.eng.result ≠ .cancelled → t.eng.result = .cancelled →
    (s.eng.pc = .eUnit ∨ s.eng.pc = .pUnit ∨ s.eng.pc = .rUnit) ∧ s.resetNow = false ∧
      (s.eng.cancel = true ∨ s.host.moves.head? = some .cancel)) ∧
  (∀ s t : State, s.resetNow = false → s.transition = .next t →
    (t.eng.cancel = true ↔
      s.eng.cancel = true ∨ (s.eng.pc.inFlight = true ∧ s.host.moves.head? = some .cancel))) ∧
  (∀ (s t : State) (i : Instr), i.isCommand = false → s.eng.pc.ready = true → (∀ m ∈ s.host.moves, m = .quiet) →
    exec i s = .next t → t.eng.cancel = false ∧ t.eng.result ≠ .cancelled)

/-! ### The engine's sequences -/

/-- R307, R280, R311: entering an error writes RESULT, COUNT and `pc`, and MAYBE_BUSY after TIMEOUT and TRANSPORT_ERROR,
and no other state. RESPOND drives the response record and goes to IDLE, or to DEAD if it was DEAD before, and changes no
other state. -/
def Obligations.ErrorsEnterAndLeaveThroughRespond : Prop :=
  (∀ (s : State) (e : ErrorCode),
    s.raise e = { s with eng := { s.eng with
      result := e, count := 0, pc := .respond,
      maybeBusy := s.eng.maybeBusy || decide (e = .timeout ∨ e = .transportError) } }) ∧
  (∀ s : State, s.eng.pc = .respond →
    ∃ t, s.seq = .next t ∧
      t.host.response = some ⟨s.eng.result, s.eng.count, if s.eng.op = 0x00 then
        some ⟨s.cfg.columnSize, s.cfg.columnsPerPage, s.cfg.pagesPerBlock, s.cfg.totalSize⟩ else none⟩ ∧
      t = { s with
        host := { s.host with response := t.host.response }
        eng := { s.eng with pc := if s.eng.wasDead = true then .dead else .idle } })

/-- R171, R172: the first status read of a unit's await: MASK is the command's, one frame `[05 C0]` receiving one byte
is sent, and with an answer POLLS is 1, STATUS the byte received and `pc` the polling state. -/
def Obligations.AwaitBeginsWithAStatusRead : Prop :=
  ∀ (s : State) (mask : Byte) (polling : Pc),
    (s.eng.pc = .eCmd ∧ mask = 0x04 ∧ polling = .eBusy) ∨ (s.eng.pc = .pCmd ∧ mask = 0x08 ∧ polling = .pBusy) ∨
      (s.eng.pc = .rPageLoaded ∧ mask = 0x00 ∧ polling = .rBusy) →
    ∃ t, s.seq = .next t ∧ t.trace = s.trace ++ [.frame [0x05, 0xC0] 1] ∧ t.eng.mask = mask ∧
      (t.reply ≠ .transportError → ∃ b, t.reply = .data [b] ∧
        t.eng = { s.eng with mask := mask, polls := 1, status := b, pc := polling }) ∧
      (t.reply = .transportError →
        t.eng = { s.eng with
          mask := mask, polls := 0, result := .transportError, count := 0, maybeBusy := true, pc := .respond })

/-- R172, R261, R308 item 5: the settle decision of a unit's await, on the last status byte. An erase or program unit
that settles without its fail bit is counted; a read slice has no fail branch and is counted only when its bytes are in
the buffer. -/
def Obligations.AwaitSettlesOnTheStatusByte : Prop :=
  ∀ s : State,
    (∀ polling ready failed : Pc,
      (s.eng.pc = .eBusy ∧ polling = .eBusy ∧ ready = .eReady ∧ failed = .eFailed) ∨
        (s.eng.pc = .pBusy ∧ polling = .pBusy ∧ ready = .pReady ∧ failed = .pFailed) →
      (s.eng.status.getLsbD 0 = false → s.eng.status &&& s.eng.mask ≠ 0 →
        s.seq = .next { s with eng := { s.eng with pc := failed } }) ∧
      (s.eng.status.getLsbD 0 = false → s.eng.status &&& s.eng.mask = 0 →
        s.seq = .next { s with eng := { s.eng with pc := ready, unit := s.eng.unit + 1 } })) ∧
    (s.eng.pc = .rBusy → s.eng.status.getLsbD 0 = false →
      s.seq = .next { s with eng := { s.eng with pc := .rReady } }) ∧
    (s.eng.pc = .eBusy ∨ s.eng.pc = .pBusy ∨ s.eng.pc = .rBusy →
      (s.eng.status.getLsbD 0 = true → s.eng.polls = s.cfg.pollLimit →
        ∃ t, s.seq = .next t ∧ t.trace = s.trace ∧
          t.eng = { s.eng with result := .timeout, count := 0, maybeBusy := true, pc := .respond }) ∧
      (s.eng.status.getLsbD 0 = true → s.eng.polls ≠ s.cfg.pollLimit →
        ∃ t, s.seq = .next t ∧ t.trace = s.trace ++ [.wait, .frame [0x05, 0xC0] 1] ∧
          (t.reply ≠ .transportError → ∃ b, t.reply = .data [b] ∧
            t.eng = { s.eng with polls := s.eng.polls + 1, status := b }) ∧
          (t.reply = .transportError →
            t.eng = { s.eng with result := .transportError, count := 0, maybeBusy := true, pc := .respond })))

/-- R222, R351: an erase unit sends WREN, then BERS with the unit's page, each moving `pc` on when it is answered. -/
def Obligations.EraseUnitSendsWrenThenBers : Prop :=
  ∀ s : State,
    (s.eng.pc = .eUnit → s.eng.cancel = false →
      ∃ t, s.seq = .next t ∧ t.trace = s.trace ++ [.frame [0x06] 0] ∧
        t.eng.page = s.eng.offset / s.cfg.pageSize + s.eng.unit ∧
        (t.reply ≠ .transportError → t.eng.pc = .eWel) ∧
        (t.reply = .transportError → t.eng.pc = .respond ∧ t.eng.result = .transportError)) ∧
    (s.eng.pc = .eWel →
      ∃ t, s.seq = .next t ∧
        t.trace = s.trace ++ [.frame
          [0xD8, 0x00, BitVec.ofNat 8 (s.eng.page / 256), BitVec.ofNat 8 (s.eng.page % 256)] 0] ∧
        (t.reply ≠ .transportError → t.eng = { s.eng with pc := .eCmd }) ∧
        (t.reply = .transportError → t.eng.pc = .respond ∧ t.eng.result = .transportError))

/-- R242, R352: a program unit sends WREN, then PLD of its chunk of the buffer, then PEX with the unit's page; a
transport error of any of them ends the request in TRANSPORT_ERROR. -/
def Obligations.ProgramUnitSendsWrenPldPex : Prop :=
  ∀ s : State,
    (s.eng.pc = .pUnit → s.eng.cancel = false →
      ∃ t, s.seq = .next t ∧ t.trace = s.trace ++ [.frame [0x06] 0] ∧
        t.eng.page = s.eng.offset / s.cfg.pageSize + s.eng.unit ∧ t.eng.dst = s.eng.unit * s.cfg.pageSize ∧
        (t.reply ≠ .transportError → t.eng.pc = .pWel) ∧
        (t.reply = .transportError → t.eng.pc = .respond ∧ t.eng.result = .transportError)) ∧
    (∀ h b, s.eng.pc = .pWel → s.eng.buf = some h → s.host.bufs[h]? = some b →
      s.eng.dst + s.cfg.pageSize ≤ b.length →
      ∃ t, s.seq = .next t ∧
        t.trace = s.trace ++ [.frame (0x02 :: 0x00 :: 0x00 :: (b.drop s.eng.dst).take s.cfg.pageSize) 0] ∧
        (t.reply ≠ .transportError → t.eng = { s.eng with pc := .pLoaded }) ∧
        (t.reply = .transportError → t.eng.pc = .respond ∧ t.eng.result = .transportError)) ∧
    (s.eng.pc = .pLoaded →
      ∃ t, s.seq = .next t ∧
        t.trace = s.trace ++ [.frame
          [0x10, 0x00, BitVec.ofNat 8 (s.eng.page / 256), BitVec.ofNat 8 (s.eng.page % 256)] 0] ∧
        (t.reply ≠ .transportError → t.eng = { s.eng with pc := .pCmd }) ∧
        (t.reply = .transportError → t.eng.pc = .respond ∧ t.eng.result = .transportError))

/-- R262, R203, R353: a read slice sends PRDC with PAGE, COL, SLEN and DST loaded from Slice(UNIT); once settled, it
sends RDC of SLEN bytes from COL, writes them to the buffer at DST, and goes to the next slice or ends the request in OK
with COUNT = LENGTH. A transport error of either frame ends the request in TRANSPORT_ERROR. -/
def Obligations.ReadSliceSendsPrdcThenRdc : Prop :=
  ∀ s : State,
    (s.eng.pc = .rUnit → s.eng.cancel = false →
      let page := s.eng.offset / s.cfg.pageSize + s.eng.unit
      let lo := max s.eng.offset (page * s.cfg.pageSize)
      let hi := min (s.eng.offset + s.eng.length) ((page + 1) * s.cfg.pageSize)
      let loaded : Engine := { s.eng with
        page := page, col := lo - page * s.cfg.pageSize, slen := hi - lo, dst := lo - s.eng.offset }
      ∃ t, s.seq = .next t ∧
        t.trace = s.trace ++ [.frame [0x13, 0x00, BitVec.ofNat 8 (page / 256), BitVec.ofNat 8 (page % 256)] 0] ∧
        (t.reply ≠ .transportError → t.eng = { loaded with pc := .rPageLoaded }) ∧
        (t.reply = .transportError →
          t.eng = { loaded with result := .transportError, count := 0, maybeBusy := true, pc := .respond })) ∧
    (∀ h b, s.eng.pc = .rReady → s.eng.op = 0x02 → s.eng.buf = some h → s.host.bufs[h]? = some b →
      s.eng.dst + s.eng.slen ≤ b.length →
      ∃ t, s.seq = .next t ∧
        t.trace = s.trace ++ [.frame
          [0x03, BitVec.ofNat 8 (s.eng.col / 256), BitVec.ofNat 8 (s.eng.col % 256), 0x00] s.eng.slen] ∧
        (t.reply ≠ .transportError → ∃ d, t.reply = .data d ∧ d.length = s.eng.slen ∧
          t.host.bufs = s.host.bufs.set h (b.take s.eng.dst ++ d ++ b.drop (s.eng.dst + s.eng.slen)) ∧
          (s.eng.unit + 1 < s.eng.nunits → t.eng = { s.eng with unit := s.eng.unit + 1, pc := .rUnit }) ∧
          (s.eng.nunits ≤ s.eng.unit + 1 →
            t.eng = { s.eng with unit := s.eng.unit + 1, count := s.eng.length, pc := .respond })) ∧
        (t.reply = .transportError →
          t.eng = { s.eng with result := .transportError, count := 0, maybeBusy := true, pc := .respond }))

/-- R305: after a failed unit the engine sends one WRDI where WRDI_ON_FAIL = 1 and none otherwise; the result is
OPERATION_FAILED either way, and a transport error of the WRDI sets MAYBE_BUSY. No other transition sends a WRDI. -/
def Obligations.WriteDisableFollowsAFailedUnit : Prop :=
  ∀ s : State,
    (s.eng.pc = .eFailed ∨ s.eng.pc = .pFailed →
      (s.cfg.wrdiOnFail = false → s.seq = .next { s with eng := { s.eng with
        result := .operationFailed, count := 0, pc := .respond } }) ∧
      (s.cfg.wrdiOnFail = true → s.seq = .next { s with eng := { s.eng with pc := .wrdi } })) ∧
    (s.eng.pc = .wrdi →
      ∃ t, s.seq = .next t ∧ t.trace = s.trace ++ [.frame [0x04] 0] ∧
        t.eng = { s.eng with
          result := .operationFailed, count := 0, pc := .respond,
          maybeBusy := s.eng.maybeBusy || decide (t.reply = .transportError) }) ∧
    (∀ t sent, s.eng.pc ≠ .wrdi → s.seq = .next t → t.trace = s.trace ++ sent → TraceEvent.frame [0x04] 0 ∉ sent)

/-- R310, R171, R172: an ERASE, READ or WRITE that passes its checks with MAYBE_BUSY = 1 begins with a status read. The
recovery await starts with MASK = 0x00 and POLLS = 0 and reads the status until it settles: settled, it clears
MAYBE_BUSY and starts the first unit; after POLL_LIMIT reads it ends the request in TIMEOUT, and a transport error ends
it in TRANSPORT_ERROR. `pc` stays RECOVER during the await, and no fail bit is tested. -/
def Obligations.RecoveryAwaitClearsMaybeBusy : Prop :=
  (∀ s : State, s.enterRecover = { s with eng := { s.eng with mask := 0x00, polls := 0, pc := .recover } }) ∧
  (∀ (s : State) (offset length : Nat) (buf : Option Nat) (i : Instr),
    s.cfg.valid = true → s.eng.pc = .idle → s.eng.maybeBusy = true → s.NoReset → 0 < length →
    (i = .erase offset length buf ∧ eraseChecks s.cfg offset length = true) ∨
      (∃ h b, buf = some h ∧ s.host.bufs[h]? = some b ∧ b.length = length ∧
        ((i = .read offset length buf ∧ readChecks s.cfg offset length = true) ∨
          (i = .write offset length buf ∧ writeChecks s.cfg offset length = true))) →
    ∃ t, exec i s = .next t ∧ (framesOf t.trace).head? = some ⟨[0x05, 0xC0], 1⟩) ∧
  ∀ s : State, s.eng.pc = .recover →
    (s.eng.polls = 0 ∨ (s.eng.status.getLsbD 0 = true ∧ s.eng.polls ≠ s.cfg.pollLimit) →
      ∃ t, s.seq = .next t ∧
        t.trace = s.trace ++ (if s.eng.polls = 0 then [] else [.wait]) ++ [.frame [0x05, 0xC0] 1] ∧
        (t.reply ≠ .transportError → ∃ b, t.reply = .data [b] ∧
          t.eng = { s.eng with polls := s.eng.polls + 1, status := b }) ∧
        (t.reply = .transportError →
          t.eng = { s.eng with result := .transportError, count := 0, maybeBusy := true, pc := .respond })) ∧
    (s.eng.polls ≠ 0 → s.eng.status.getLsbD 0 = false →
      ∃ t, s.seq = .next t ∧ t.eng.maybeBusy = false ∧ t.eng.unit = 0 ∧ t.trace = s.trace ∧ t.dev = s.dev ∧
        (0 < s.eng.nunits → t.eng.pc.unitBoundary = true)) ∧
    (s.eng.polls ≠ 0 → s.eng.status.getLsbD 0 = true → s.eng.polls = s.cfg.pollLimit →
      ∃ t, s.seq = .next t ∧ t.eng.maybeBusy = true ∧ t.eng.result = .timeout ∧ t.eng.count = 0 ∧
        t.eng.pc = .respond ∧ t.trace = s.trace ∧ t.dev = s.dev)

/-! ### Address translator -/

/-- R190: the linear split by division is the split by shift and mask, and stays within the device. -/
def Obligations.LinearSplitIsShiftAndMask : Prop :=
  ∀ (c : Config) (a : Nat), c.valid = true →
    pageOf c a = a / c.pageSize ∧ colOf c a = a % c.pageSize ∧
    (∃ k, c.pageSize = 2 ^ k ∧ pageOf c a = a >>> k ∧ colOf c a = a &&& (c.pageSize - 1)) ∧
    (a < c.totalSize → pageOf c a < c.numPages ∧ colOf c a < c.pageSize)

/-- R204: the slice invariants (a) to (g). -/
def Obligations.SlicesCoverTheRequest : Prop :=
  ∀ (c : Config) (offset length : Nat), c.valid = true → inRange c offset length = true → 0 < length →
    let slices := planAccess c offset length
    slices.length = (offset + length - 1) / c.pageSize - offset / c.pageSize + 1 ∧
    (slices.map Slice.lengthInPage).sum = length ∧
    (∀ k sl, slices[k]? = some sl →
      sl.page = offset / c.pageSize + k ∧ 1 ≤ sl.lengthInPage ∧ sl.columnOffset + sl.lengthInPage ≤ c.pageSize ∧
      sl.columnOffset = (if k = 0 then offset % c.pageSize else 0) ∧ sl.page < c.numPages) ∧
    (∀ sl, slices[0]? = some sl → sl.dst = 0) ∧
    (∀ k sl sl', slices[k]? = some sl → slices[k + 1]? = some sl' → sl'.dst = sl.dst + sl.lengthInPage)

/-- R195: an erase plan has one unit per page of the range, starts at a block boundary and covers whole blocks. -/
def Obligations.ErasePlanCoversWholeBlocks : Prop :=
  ∀ (c : Config) (offset length : Nat), c.valid = true → eraseChecks c offset length = true → 0 < length →
    spannedPages c offset length = length / c.pageSize ∧
    unitPage c offset 0 % c.pagesPerBlock = 0 ∧ spannedPages c offset length % c.pagesPerBlock = 0

/-! ### Host operations -/

/-- R283, R286: GEOMETRY in every ready state answers OK, count 0 and the geometry, with no frame, and leaves the
device and MAYBE_BUSY. -/
def Obligations.GeometryReportsTheConfiguration : Prop :=
  ∀ (s : State) (offset length : Nat) (buf : Option Nat), s.eng.pc.ready = true → s.resetNow = false →
    ∃ t, exec (.geometry offset length buf) s = .next t ∧
      t.host.response = some ⟨.ok, 0,
        some ⟨s.cfg.columnSize, s.cfg.columnsPerPage, s.cfg.pagesPerBlock, s.cfg.totalSize⟩⟩ ∧
      State.SameDevice s t ∧ t.trace = [] ∧ t.eng.pc = s.eng.pc ∧ t.eng.maybeBusy = s.eng.maybeBusy ∧
      t.host.bufs = s.host.bufs

/-- R191, R192, R194, R198, R200: an ERASE, READ or WRITE out of range, an ERASE off the block boundaries and a WRITE off
the page boundaries answer INVALID_ARGUMENT, count 0, with no side effect. Every other one passes its checks. -/
def Obligations.FailedChecksHaveNoSideEffects : Prop :=
  (∀ (s : State) (offset length : Nat) (buf : Option Nat) (i : Instr),
    s.eng.pc.ready = true → s.resetNow = false →
    (i = .erase offset length buf ∧
      (s.cfg.totalSize ≤ offset ∨ s.cfg.totalSize - offset < length ∨
        offset % s.cfg.blockSize ≠ 0 ∨ length % s.cfg.blockSize ≠ 0)) ∨
      (∃ h b, buf = some h ∧ s.host.bufs[h]? = some b ∧ b.length = length ∧
        ((i = .read offset length buf ∧ (s.cfg.totalSize ≤ offset ∨ s.cfg.totalSize - offset < length)) ∨
          (i = .write offset length buf ∧
            (s.cfg.totalSize ≤ offset ∨ s.cfg.totalSize - offset < length ∨
              offset % s.cfg.pageSize ≠ 0 ∨ length % s.cfg.pageSize ≠ 0)))) →
    ∃ t, exec i s = .next t ∧ t.host.response = some ⟨.invalidArgument, 0, none⟩ ∧
      State.SameDevice s t ∧ t.trace = [] ∧ t.host.bufs = s.host.bufs ∧ t.eng.count = 0 ∧
      t.eng.pc = s.eng.pc ∧ t.eng.maybeBusy = s.eng.maybeBusy) ∧
  ∀ (c : Config) (offset length : Nat), offset < c.totalSize → length ≤ c.totalSize - offset →
    readChecks c offset length = true ∧
    (offset % c.blockSize = 0 → length % c.blockSize = 0 → eraseChecks c offset length = true) ∧
    (offset % c.pageSize = 0 → length % c.pageSize = 0 → writeChecks c offset length = true)

/-- R193: a request of length 0 answers OK, count 0, if it passes its checks, and INVALID_ARGUMENT, count 0, if it
fails one; either way with no frame and no recovery await, even in DEAD and while MAYBE_BUSY = 1 (R308 item 2). -/
def Obligations.EmptyRequestsSendNoFrame : Prop :=
  ∀ (s : State) (offset : Nat) (buf : Option Nat) (i : Instr) (checks : Bool),
    s.eng.pc.ready = true → s.resetNow = false →
    (i = .erase offset 0 buf ∧ checks = eraseChecks s.cfg offset 0) ∨
      (∃ h, buf = some h ∧ s.host.bufs[h]? = some [] ∧
        ((i = .read offset 0 buf ∧ checks = readChecks s.cfg offset 0) ∨
          (i = .write offset 0 buf ∧ checks = writeChecks s.cfg offset 0))) →
    ∃ t, exec i s = .next t ∧
      t.host.response = some ⟨if checks = true then .ok else .invalidArgument, 0, none⟩ ∧
      State.SameDevice s t ∧ t.trace = [] ∧ t.eng.pc = s.eng.pc ∧ t.eng.maybeBusy = s.eng.maybeBusy

/-- R344: a DEAD engine answers an ERASE, READ or WRITE that would send frames with TRANSPORT_ERROR, count 0. Whatever
the request, it sends no frame, and without a reset it stays DEAD. -/
def Obligations.DeadEngineSendsNothing : Prop :=
  (∀ (s : State) (offset length : Nat) (buf : Option Nat) (i : Instr),
    s.eng.pc = .dead → s.resetNow = false → 0 < length →
    (i = .erase offset length buf ∧ eraseChecks s.cfg offset length = true) ∨
      (∃ h b, buf = some h ∧ s.host.bufs[h]? = some b ∧ b.length = length ∧
        ((i = .read offset length buf ∧ readChecks s.cfg offset length = true) ∨
          (i = .write offset length buf ∧ writeChecks s.cfg offset length = true))) →
    ∃ t, exec i s = .next t ∧ t.host.response = some ⟨.transportError, 0, none⟩ ∧ State.SameDevice s t ∧
      t.trace = [] ∧ t.eng.pc = .dead) ∧
  (∀ s t : State, s.eng.pc = .dead → s.framePort = none → s.NoReset → step s = .next t →
    t.eng.pc = .dead ∧ t.dev = s.dev ∧ t.reply = s.reply ∧ (t.trace = s.trace ∨ t.trace = []))

/-- R110, R282: an unassigned host operation code answers INVALID_ARGUMENT, count 0, with no frame. -/
def Obligations.UnassignedOperationsAreInvalid : Prop :=
  ∀ (s : State) (r : Request) (rest : List Request),
    s.cfg.valid = true → s.framePort = none → s.eng.pc.ready = true → HostMove.reset ∉ s.host.moves →
    s.host.requests = r :: rest → r.offset < 2 ^ s.cfg.addrWidth → r.length < 2 ^ s.cfg.addrWidth →
    4 ≤ r.op.toNat →
    ∃ t, step s = .next t ∧ t.host.response = some ⟨.invalidArgument, 0, none⟩ ∧ State.SameDevice s t ∧
      t.trace = [] ∧ t.eng.pc = s.eng.pc ∧ t.eng.maybeBusy = s.eng.maybeBusy

/-- The requests that do not run. R281: one presented to an engine that is not READY is held, and nothing changes; that
exec answers the same state then is log entry 11. R287 (b): a READ or WRITE whose buffer is absent or of another length
than it says has no step; that it faults at acceptance is log entry 10. -/
def Obligations.RequestsThatDoNotRun : Prop :=
  (∀ (s : State) (i : Instr), i.isCommand = false → s.eng.pc.ready = false → exec i s = .next s) ∧
  (∀ (s : State) (offset length : Nat) (buf : Option Nat), s.eng.pc.ready = true →
    (∀ h b, buf = some h → s.host.bufs[h]? = some b → b.length ≠ length) →
    exec (.read offset length buf) s = .fault .bufferDuty ∧
    exec (.write offset length buf) s = .fault .bufferDuty)

/-- R25, R280, R361: every request of a READY engine that nobody resets, with a buffer of its length where it needs one
(R287 (b)), ends with the engine READY again and a response, whatever device and transport do. The run is then final, or
faulted where DFAULT = 1 (R320, log entry 27). -/
def Obligations.EveryRequestEndsReady : Prop :=
  ∀ (s : State) (i : Instr), s.cfg.valid = true → s.eng.pc.ready = true → s.NoReset → i.isCommand = false →
    (∀ offset length buf, i = .read offset length buf ∨ i = .write offset length buf →
      ∃ h b, buf = some h ∧ s.host.bufs[h]? = some b ∧ b.length = length) →
    ∃ t r, exec i s = .next t ∧ t.eng.pc = s.eng.pc ∧ t.host.response = some r ∧ r.code = t.eng.result ∧
      t.verdict = if t.dev.dfault = true then .faulted else .final

/-- R25: a request sends at most (NUNITS + 1) * (POLL_LIMIT + 4) frames. -/
def Obligations.RequestFramesAreBounded : Prop :=
  ∀ (s t : State) (i : Instr), s.cfg.valid = true → s.eng.pc.ready = true → s.NoReset → i.isCommand = false →
    exec i s = .next t → (framesOf t.trace).length ≤ (t.eng.nunits + 1) * (s.cfg.pollLimit + 4)

/-- R21, R281, R345: what a host operation writes. It latches its op code, offset, length and buffer (that BUF keeps the
handle after the response is log entry 13), and leaves the configuration, the frame port, the requests still to come and
BP; ERASE leaves COL, SLEN, DST and every buffer, WRITE leaves COL, SLEN and every buffer, READ leaves every buffer but
its own, and GEOMETRY leaves the unit registers too. -/
def Obligations.HostOperationsWriteOnlyTheirRegisters : Prop :=
  ∀ (s t : State) (offset length : Nat) (buf : Option Nat) (i : Instr), s.eng.pc.ready = true → s.NoReset →
    i = .geometry offset length buf ∨ i = .erase offset length buf ∨ i = .read offset length buf ∨
      i = .write offset length buf →
    exec i s = .next t →
    t.cfg = s.cfg ∧ t.framePort = s.framePort ∧ t.host.requests = s.host.requests ∧ t.dev.bp = s.dev.bp ∧
    t.eng.offset = offset ∧ t.eng.length = length ∧ t.eng.buf = buf ∧
    (i = .geometry offset length buf → t.eng.op = 0x00) ∧ (i = .erase offset length buf → t.eng.op = 0x01) ∧
    (i = .read offset length buf → t.eng.op = 0x02) ∧ (i = .write offset length buf → t.eng.op = 0x03) ∧
    (i ≠ .read offset length buf → t.host.bufs = s.host.bufs ∧ t.eng.col = s.eng.col ∧ t.eng.slen = s.eng.slen) ∧
    (i = .erase offset length buf → t.eng.dst = s.eng.dst) ∧
    (i = .read offset length buf → ∀ k, buf ≠ some k → t.host.bufs[k]? = s.host.bufs[k]?) ∧
    (i = .geometry offset length buf →
      t.eng.unit = s.eng.unit ∧ t.eng.nunits = s.eng.nunits ∧ t.eng.page = s.eng.page ∧ t.eng.dst = s.eng.dst ∧
      t.eng.polls = s.eng.polls ∧ t.eng.status = s.eng.status ∧ t.eng.mask = s.eng.mask)

/-- R72, R83, R190: whatever the draws, an ERASE or WRITE of an idle device changes no byte of ARRAY outside its own
range. -/
def Obligations.ArrayChangesStayInTheRange : Prop :=
  ∀ (s t : State) (offset length : Nat) (buf : Option Nat) (i : Instr), s.Protocol → s.dev.busy = false →
    i = .erase offset length buf ∨ i = .write offset length buf → exec i s = .next t →
    ∀ a, ¬ (offset ≤ a ∧ a < offset + length) → t.dev.array.read a = s.dev.array.read a

/-- R74, R265: a READ of a device that executes nothing changes no device state but CACHE, whatever the draws; PENDING is
none afterwards, or the load of an unsettled slice. -/
def Obligations.ReadChangesOnlyTheCache : Prop :=
  ∀ (s t : State) (offset length : Nat) (buf : Option Nat), s.Protocol → s.dev.busy = false →
    exec (.read offset length buf) s = .next t →
    t.dev = { s.dev with cache := t.dev.cache, pending := t.dev.pending } ∧
    (t.dev.pending = none ∨ ∃ page, t.dev.pending = some (.load page))

/-- R224, R244, R264, R25: whatever the draws and however the request ends, the units counted in UNIT stand, and what lies
beyond the unit in progress is untouched. For an ERASE: the blocks before the block of the unit in progress are all
0xFF, the blocks after it are as before. For a WRITE to erased pages: the pages before it hold the buffer's bytes, the
pages after it are as before. For a READ: the buffer holds the bytes of the slices before it. All units are counted
exactly when the result is OK. -/
def Obligations.CompletedUnitsStand : Prop :=
  ∀ (s : State) (offset length : Nat), s.Protocol → s.eng.pc = .idle → s.eng.maybeBusy = false → 0 < length →
    (∀ buf, eraseChecks s.cfg offset length = true → s.dev.bp = 0x00 →
      ∃ t, exec (.erase offset length buf) s = .next t ∧
        t.eng.unit ≤ length / s.cfg.pageSize ∧ (t.eng.result = .ok ↔ t.eng.unit = length / s.cfg.pageSize) ∧
        (∀ a, offset ≤ a → a < offset + length →
          a / s.cfg.blockSize < (offset / s.cfg.pageSize + t.eng.unit) / s.cfg.pagesPerBlock →
          t.dev.array.read a = 0xFF) ∧
        (∀ a, (offset / s.cfg.pageSize + t.eng.unit) / s.cfg.pagesPerBlock < a / s.cfg.blockSize →
          t.dev.array.read a = s.dev.array.read a)) ∧
    (∀ h b, s.host.bufs[h]? = some b → b.length = length →
      (writeChecks s.cfg offset length = true → s.dev.bp = 0x00 →
        (∀ a, offset ≤ a → a < offset + length → s.dev.array.read a = 0xFF) →
        ∃ t, exec (.write offset length (some h)) s = .next t ∧
          t.eng.unit ≤ length / s.cfg.pageSize ∧ (t.eng.result = .ok ↔ t.eng.unit = length / s.cfg.pageSize) ∧
          (∀ i (hi : i < b.length), i < t.eng.unit * s.cfg.pageSize → t.dev.array.read (offset + i) = b[i]) ∧
          (∀ i, (t.eng.unit + 1) * s.cfg.pageSize ≤ i →
            t.dev.array.read (offset + i) = s.dev.array.read (offset + i))) ∧
      (readChecks s.cfg offset length = true →
        ∃ t out, exec (.read offset length (some h)) s = .next t ∧ t.host.bufs[h]? = some out ∧
          out.length = length ∧ t.eng.unit ≤ spannedPages s.cfg offset length ∧
          (t.eng.result = .ok ↔ t.eng.unit = spannedPages s.cfg offset length) ∧
          (∀ i < length, offset + i < (offset / s.cfg.pageSize + t.eng.unit) * s.cfg.pageSize →
            out[i]? = some (s.dev.array.read (offset + i)))))

/-- R222, R223, R81: an ERASE whose commands all succeed at their first status read sends, for each page of the range,
WREN, BERS and one status read; it answers OK, count 0; every byte of the range then reads 0xFF and every other byte as
before. -/
def Obligations.EraseErasesItsRange : Prop :=
  ∀ (s : State) (offset length : Nat) (buf : Option Nat),
    s.Protocol → s.eng.pc = .idle → s.eng.maybeBusy = false → s.dev.bp = 0x00 →
    (∀ m ∈ s.host.moves, m = .quiet) → eraseChecks s.cfg offset length = true → 0 < length →
    s.Smooth (3 * (length / s.cfg.pageSize)) (length / s.cfg.pageSize) →
    ∃ t, exec (.erase offset length buf) s = .next t ∧ t.host.response = some ⟨.ok, 0, none⟩ ∧
      (∀ a, offset ≤ a → a < offset + length → t.dev.array.read a = 0xFF) ∧
      (∀ a, ¬ (offset ≤ a ∧ a < offset + length) → t.dev.array.read a = s.dev.array.read a) ∧
      framesOf t.trace = (List.range (length / s.cfg.pageSize)).flatMap (fun k =>
        [⟨[0x06], 0⟩, ⟨pageFrame 0xD8 (offset / s.cfg.pageSize + k), 0⟩, ⟨[0x05, 0xC0], 1⟩]) ∧
      t.eng.pc = .idle ∧ t.eng.maybeBusy = false ∧ t.dev.dfault = false ∧ t.host.bufs = s.host.bufs

/-- R242, R243, R82: a WRITE to erased pages whose commands all succeed at their first status read sends, for each
page, WREN, PLD of its chunk, PEX and one status read; it answers OK with COUNT = LENGTH; the range then holds the
buffer's bytes and every other byte is as before. -/
def Obligations.WriteStoresItsBuffer : Prop :=
  ∀ (s : State) (offset length h : Nat) (b : List Byte),
    s.Protocol → s.eng.pc = .idle → s.eng.maybeBusy = false → s.dev.bp = 0x00 →
    (∀ m ∈ s.host.moves, m = .quiet) → writeChecks s.cfg offset length = true → 0 < length →
    s.host.bufs[h]? = some b → b.length = length →
    (∀ a, offset ≤ a → a < offset + length → s.dev.array.read a = 0xFF) →
    s.Smooth (4 * (length / s.cfg.pageSize)) (length / s.cfg.pageSize) →
    ∃ t, exec (.write offset length (some h)) s = .next t ∧ t.host.response = some ⟨.ok, length, none⟩ ∧
      (∀ i (hi : i < b.length), t.dev.array.read (offset + i) = b[i]) ∧
      (∀ a, ¬ (offset ≤ a ∧ a < offset + length) → t.dev.array.read a = s.dev.array.read a) ∧
      framesOf t.trace = (List.range (length / s.cfg.pageSize)).flatMap (fun k =>
        [⟨[0x06], 0⟩,
          ⟨0x02 :: 0x00 :: 0x00 :: (b.drop (k * s.cfg.pageSize)).take s.cfg.pageSize, 0⟩,
          ⟨pageFrame 0x10 (offset / s.cfg.pageSize + k), 0⟩, ⟨[0x05, 0xC0], 1⟩]) ∧
      t.eng.pc = .idle ∧ t.eng.maybeBusy = false ∧ t.dev.dfault = false ∧ t.host.bufs = s.host.bufs

/-- R262, R263: a READ whose loads complete at their first status read sends, for each slice, PRDC, one status read and
RDC; it answers OK with COUNT = LENGTH; the buffer then holds the range's bytes, and the array is as before. -/
def Obligations.ReadFillsItsBuffer : Prop :=
  ∀ (s : State) (offset length h : Nat) (b : List Byte),
    s.Protocol → s.eng.pc = .idle → s.eng.maybeBusy = false →
    (∀ m ∈ s.host.moves, m = .quiet) → readChecks s.cfg offset length = true → 0 < length →
    s.host.bufs[h]? = some b → b.length = length →
    s.Smooth (3 * spannedPages s.cfg offset length) (spannedPages s.cfg offset length) →
    ∃ t out, exec (.read offset length (some h)) s = .next t ∧ t.host.response = some ⟨.ok, length, none⟩ ∧
      t.host.bufs[h]? = some out ∧ out.length = length ∧
      (∀ i < length, out[i]? = some (s.dev.array.read (offset + i))) ∧
      (∀ k, k ≠ h → t.host.bufs[k]? = s.host.bufs[k]?) ∧
      (∀ a, t.dev.array.read a = s.dev.array.read a) ∧
      framesOf t.trace = (planAccess s.cfg offset length).flatMap (fun sl =>
        [⟨pageFrame 0x13 sl.page, 0⟩, ⟨[0x05, 0xC0], 1⟩, ⟨readCacheFrame sl.columnOffset, sl.lengthInPage⟩]) ∧
      t.eng.pc = .idle ∧ t.eng.maybeBusy = false ∧ t.dev.dfault = false
end

