-- ==== Sys2Proof/Laws/Decode.lean ====
section
/-! SUPPORT. The laws of decoding: the address bytes, and what each frame the engine sends decodes to. -/

namespace Sys2Proof

/-- The two bytes of a field, joined, are the field (spec/30_encoding.md R104). -/
@[simp] theorem joinBytes_hi_lo (h : Half) : joinBytes (hiByte h) (loByte h) = h := by
  simp only [joinBytes, hiByte, loByte]
  apply BitVec.eq_of_getLsbD_eq
  intro i hi
  simp only [BitVec.getLsbD_append, BitVec.getLsbD_extractLsb']
  by_cases h8 : i < 8
  · simp [h8]
  · have : i - 8 < 8 := by omega
    simp [h8, this, show 8 + (i - 8) = i by omega]

/-- The high byte of two joined bytes. -/
@[simp] theorem hiByte_joinBytes (hi lo : Byte) : hiByte (joinBytes hi lo) = hi := by
  simp only [joinBytes, hiByte]
  apply BitVec.eq_of_getLsbD_eq
  intro i h
  simp only [BitVec.getLsbD_append, BitVec.getLsbD_extractLsb']
  simp [h, show ¬ 8 + i < 8 by omega, show 8 + i - 8 = i by omega]

/-- The low byte of two joined bytes. -/
@[simp] theorem loByte_joinBytes (hi lo : Byte) : loByte (joinBytes hi lo) = lo := by
  simp only [joinBytes, loByte]
  apply BitVec.eq_of_getLsbD_eq
  intro i h
  simp only [BitVec.getLsbD_append, BitVec.getLsbD_extractLsb']
  simp [h]

namespace Machine

/-- A register that fits 16 bits is the value of its field. -/
theorem field16_toNat {n : Nat} (h : n < 65536) : (field16 n).toNat = n := by
  simp [field16, Nat.mod_eq_of_lt h]

end Machine

/-! ### The frames the engine sends -/

@[simp] theorem decodeFrame_wren : decodeFrame ⟨[opcWren], 0⟩ = .ok .wren := rfl

@[simp] theorem decodeFrame_wrdi : decodeFrame ⟨[opcWrdi], 0⟩ = .ok .wrdi := rfl

@[simp] theorem decodeFrame_rdsr (reg : Byte) : decodeFrame ⟨[opcRdsr, reg], 1⟩ = .ok (.rdsr reg) := rfl

@[simp] theorem decodeFrame_wrsr (reg value : Byte) :
    decodeFrame ⟨[opcWrsr, reg, value], 0⟩ = .ok (.wrsr reg value) := rfl

@[simp] theorem decodeFrame_prdc (page : Nat) :
    decodeFrame ⟨Machine.pageFrame opcPrdc page, 0⟩ = .ok (.prdc (Machine.field16 page)) := by
  simp [decodeFrame, Machine.pageFrame, readPage, opcPrdc, opcRdid, opcRdsr, opcWrsr, opcWren, opcWrdi]

@[simp] theorem decodeFrame_pex (page : Nat) :
    decodeFrame ⟨Machine.pageFrame opcPex page, 0⟩ = .ok (.pex (Machine.field16 page)) := by
  simp [decodeFrame, Machine.pageFrame, readPage, opcPex, opcPld, opcRdc, opcPrdc, opcRdid, opcRdsr, opcWrsr,
    opcWren, opcWrdi]

@[simp] theorem decodeFrame_bers (page : Nat) :
    decodeFrame ⟨Machine.pageFrame opcBers page, 0⟩ = .ok (.bers (Machine.field16 page)) := by
  simp [decodeFrame, Machine.pageFrame, readPage, opcBers, opcPex, opcPld, opcRdc, opcPrdc, opcRdid, opcRdsr,
    opcWrsr, opcWren, opcWrdi]

@[simp] theorem decodeFrame_rdc (col n : Nat) (hn : n ≠ 0) :
    decodeFrame ⟨Machine.readCacheFrame col, n⟩ = .ok (.rdc (Machine.field16 col) n) := by
  simp [decodeFrame, Machine.readCacheFrame, readRcache, opcRdc, opcPrdc, opcRdid, opcRdsr, opcWrsr, opcWren,
    opcWrdi, hn]

@[simp] theorem decodeFrame_pld (data : List Byte) :
    decodeFrame ⟨opcPld :: 0x00 :: 0x00 :: data, 0⟩ = .ok (.pld 0 data) := rfl

/-! ### What each format reader accepts -/

theorem readOp_ok {opc : Byte} {i j : Instr} {rest : List Byte} {rx : Nat} (h : readOp opc i rest rx = .ok j) :
    rest = [] ∧ rx = 0 ∧ j = i := by
  unfold readOp at h
  split at h
  · rename_i hc; injection h with h; exact ⟨hc.1, hc.2, h.symm⟩
  · cases h

theorem readRreg_ok {opc : Byte} {mk : Byte → Instr} {j : Instr} {rest : List Byte} {rx : Nat}
    (h : readRreg opc mk rest rx = .ok j) : ∃ reg, rest = [reg] ∧ rx = 1 ∧ j = mk reg := by
  unfold readRreg at h
  split at h
  · split at h
    · injection h with h; exact ⟨_, rfl, ‹_›, h.symm⟩
    · cases h
  · cases h

theorem readWreg_ok {opc : Byte} {mk : Byte → Byte → Instr} {j : Instr} {rest : List Byte} {rx : Nat}
    (h : readWreg opc mk rest rx = .ok j) : ∃ reg value, rest = [reg, value] ∧ rx = 0 ∧ j = mk reg value := by
  unfold readWreg at h
  split at h
  · split at h
    · injection h with h; exact ⟨_, _, rfl, ‹_›, h.symm⟩
    · cases h
  · cases h

theorem readPage_ok {opc : Byte} {mk : Half → Instr} {j : Instr} {rest : List Byte} {rx : Nat}
    (h : readPage opc mk rest rx = .ok j) : ∃ hi lo, rest = [0, hi, lo] ∧ rx = 0 ∧ j = mk (joinBytes hi lo) := by
  unfold readPage at h
  split at h
  · split at h
    · cases h
    · split at h
      · cases h
      · rename_i h1 h2
        injection h with h
        exact ⟨_, _, by rw [not_not.1 h2], not_not.1 h1, h.symm⟩
  · cases h

theorem readRcache_ok {opc : Byte} {mk : Half → Nat → Instr} {j : Instr} {rest : List Byte} {rx : Nat}
    (h : readRcache opc mk rest rx = .ok j) :
    ∃ hi lo, rest = [hi, lo, 0] ∧ rx ≠ 0 ∧ j = mk (joinBytes hi lo) rx := by
  unfold readRcache at h
  split at h
  · split at h
    · cases h
    · split at h
      · cases h
      · rename_i h1 h2
        injection h with h
        exact ⟨_, _, by rw [not_not.1 h2], h1, h.symm⟩
  · cases h

theorem readWcache_ok {opc : Byte} {mk : Half → List Byte → Instr} {j : Instr} {rest : List Byte} {rx : Nat}
    (h : readWcache opc mk rest rx = .ok j) :
    ∃ hi lo data, rest = hi :: lo :: data ∧ rx = 0 ∧ j = mk (joinBytes hi lo) data := by
  unfold readWcache at h
  split at h
  · split at h
    · injection h with h; exact ⟨_, _, _, rfl, ‹_›, h.symm⟩
    · cases h
  · cases h

theorem readId_ok {opc : Byte} {mk : Nat → Nat → Instr} {j : Instr} {rest : List Byte} {rx : Nat}
    (h : readId opc mk rest rx = .ok j) : rest = List.replicate rest.length 0 ∧ j = mk rest.length rx := by
  unfold readId at h
  split at h
  · rename_i hc
    injection h with h
    refine ⟨List.eq_replicate_iff.2 ⟨rfl, fun b hb => ?_⟩, h.symm⟩
    simpa using List.all_eq_true.1 hc b hb
  · cases h

/-- A frame never decodes to a host operation. -/
theorem decodeFrame_isCommand {f : Frame} {i : Instr} (h : decodeFrame f = .ok i) : i.isCommand = true := by
  unfold decodeFrame at h
  split at h
  · cases h
  · split_ifs at h
    · obtain ⟨-, rfl⟩ := readId_ok h; rfl
    · obtain ⟨_, -, -, rfl⟩ := readRreg_ok h; rfl
    · obtain ⟨_, _, -, -, rfl⟩ := readWreg_ok h; rfl
    · obtain ⟨-, -, rfl⟩ := readOp_ok h; rfl
    · obtain ⟨-, -, rfl⟩ := readOp_ok h; rfl
    · obtain ⟨_, _, -, -, rfl⟩ := readPage_ok h; rfl
    · obtain ⟨_, _, -, -, rfl⟩ := readRcache_ok h; rfl
    · obtain ⟨_, _, _, -, -, rfl⟩ := readWcache_ok h; rfl
    · obtain ⟨_, _, -, -, rfl⟩ := readPage_ok h; rfl
    · obtain ⟨_, _, -, -, rfl⟩ := readPage_ok h; rfl

end Sys2Proof
end

