-- ==== Sys2Proof/Laws/Memory.lean ====
section
/-! SUPPORT. The laws of byte stores: what a read gives after each operation, and that every operation keeps the
canonical form. -/

namespace Sys2Proof.Machine

@[simp] theorem Memory.read_nil (a : Nat) : Memory.read [] a = erasedByte := rfl

theorem Memory.read_cons (cell : Host.Cell) (m : Memory) (a : Nat) :
    Memory.read (cell :: m) a = if cell.1 = a then cell.2 else Memory.read m a := rfl

/-- A read passes over cells that do not name the address. -/
theorem Memory.read_append_of_not_mem (m n : Memory) (a : Nat) (h : ∀ cell ∈ m, cell.1 ≠ a) :
    Memory.read (m ++ n) a = Memory.read n a := by
  induction m with
  | nil => rfl
  | cons cell m ih =>
    simp only [List.mem_cons, forall_eq_or_imp] at h
    simp [Memory.read_cons, h.1, ih h.2]

/-- Cells that do not name the address may be appended. -/
theorem Memory.read_append_of_not_mem_right (m n : Memory) (a : Nat) (h : ∀ cell ∈ n, cell.1 ≠ a) :
    Memory.read (m ++ n) a = Memory.read m a := by
  induction m with
  | nil =>
    induction n with
    | nil => rfl
    | cons cell n ih =>
      simp only [List.mem_cons, forall_eq_or_imp] at h
      simpa [Memory.read_cons, h.1] using ih h.2
  | cons cell m ih => simp [Memory.read_cons, ih]

/-- A filter that keeps every cell of the address does not change what it reads. -/
theorem Memory.read_filter_of_keeps (m : Memory) (keep : Host.Cell → Bool) (a : Nat)
    (h : ∀ cell : Host.Cell, cell.1 = a → keep cell = true) :
    Memory.read (m.filter keep) a = Memory.read m a := by
  induction m with
  | nil => rfl
  | cons cell m ih =>
    by_cases hc : cell.1 = a
    · simp [h cell hc, Memory.read_cons, hc]
    · by_cases hk : keep cell = true <;> simp [hk, Memory.read_cons, hc, ih]

/-- A filter that drops every cell of the address leaves it erased. -/
theorem Memory.read_filter_of_drops (m : Memory) (keep : Host.Cell → Bool) (a : Nat)
    (h : ∀ cell : Host.Cell, cell.1 = a → keep cell = false) :
    Memory.read (m.filter keep) a = erasedByte := by
  induction m with
  | nil => rfl
  | cons cell m ih =>
    by_cases hk : keep cell = true
    · have hc : cell.1 ≠ a := fun e => by simp [h cell e] at hk
      simp [hk, Memory.read_cons, hc, ih]
    · simp [hk, ih]

theorem Memory.mem_cells {lo n : Nat} {f : Nat → Byte} {cell : Host.Cell} :
    cell ∈ Memory.cells lo n f ↔ ∃ i < n, f i ≠ erasedByte ∧ cell = (lo + i, f i) := by
  simp only [Memory.cells, List.mem_filterMap, List.mem_range]
  constructor
  · rintro ⟨i, hi, h⟩
    split at h
    · cases h
    · exact ⟨i, hi, ‹_›, (Option.some.inj h).symm⟩
  · rintro ⟨i, hi, h, rfl⟩
    exact ⟨i, hi, by simp [h]⟩

theorem Memory.cells_succ (lo n : Nat) (f : Nat → Byte) :
    Memory.cells lo (n + 1) f =
      Memory.cells lo n f ++ (if f n = erasedByte then [] else [(lo + n, f n)]) := by
  simp only [Memory.cells, List.range_succ, List.filterMap_append, List.filterMap_cons, List.filterMap_nil]
  split <;> simp_all

theorem Memory.read_cells (lo n : Nat) (f : Nat → Byte) (a : Nat) :
    Memory.read (Memory.cells lo n f) a = if lo ≤ a ∧ a < lo + n then f (a - lo) else erasedByte := by
  induction n with
  | zero => simp [Memory.cells]
  | succ n ih =>
    rw [Memory.cells_succ]
    by_cases ha : a = lo + n
    · subst ha
      rw [Memory.read_append_of_not_mem]
      · by_cases hf : f n = erasedByte <;> simp [hf, Memory.read_cons]
      · intro cell hc
        obtain ⟨i, hi, -, rfl⟩ := Memory.mem_cells.1 hc
        simp; omega
    · rw [Memory.read_append_of_not_mem_right, ih]
      · have : (lo ≤ a ∧ a < lo + n) ↔ (lo ≤ a ∧ a < lo + (n + 1)) := by omega
        simp [this]
      · intro cell hc
        split at hc
        · cases hc
        · simp at hc; subst hc; simp; omega

/-- What a read gives after bytes were set: the new byte inside the range, the old one outside. -/
theorem Memory.read_fill (m : Memory) (lo n : Nat) (f : Nat → Byte) (a : Nat) :
    (Memory.fill m lo n f).read a = if lo ≤ a ∧ a < lo + n then f (a - lo) else m.read a := by
  unfold Memory.fill
  by_cases hlo : a < lo
  · rw [List.append_assoc, Memory.read_append_of_not_mem_right, Memory.read_filter_of_keeps]
    · simp; omega
    · intro cell hc; simp [hc, hlo]
    · intro cell hc
      rcases List.mem_append.1 hc with hc | hc
      · obtain ⟨i, -, -, rfl⟩ := Memory.mem_cells.1 hc; simp; omega
      · simp at hc; omega
  · by_cases hhi : lo + n ≤ a
    · rw [Memory.read_append_of_not_mem, Memory.read_filter_of_keeps]
      · simp; omega
      · intro cell hc; simp [hc, hhi]
      · intro cell hc
        rcases List.mem_append.1 hc with hc | hc
        · simp at hc; omega
        · obtain ⟨i, hi, -, rfl⟩ := Memory.mem_cells.1 hc; simp; omega
    · rw [Memory.read_append_of_not_mem_right, Memory.read_append_of_not_mem, Memory.read_cells]
      · have : lo ≤ a ∧ a < lo + n := by omega
        simp [this]
      · intro cell hc; simp at hc; omega
      · intro cell hc; simp at hc; omega

/-- What a read gives after a range was cleared. -/
theorem Memory.read_clear (m : Memory) (lo n a : Nat) :
    (Memory.clear m lo n).read a = if lo ≤ a ∧ a < lo + n then erasedByte else m.read a := by
  unfold Memory.clear
  by_cases h : lo ≤ a ∧ a < lo + n
  · rw [Memory.read_filter_of_drops]
    · simp [h]
    · intro cell hc; simp [hc]; omega
  · rw [Memory.read_filter_of_keeps]
    · simp [h]
    · intro cell hc; simp [hc]; omega

theorem Memory.wf_nil : Memory.wf [] := by simp [Memory.wf]

theorem Memory.wf_filter {m : Memory} (h : m.wf) (keep : Host.Cell → Bool) : Memory.wf (m.filter keep) :=
  ⟨h.1.filter _, fun cell hc => h.2 cell (List.mem_filter.1 hc).1⟩

theorem Memory.wf_append {m n : Memory} (hm : m.wf) (hn : n.wf) (h : ∀ a ∈ m, ∀ b ∈ n, a.1 < b.1) :
    Memory.wf (m ++ n) :=
  ⟨List.pairwise_append.2 ⟨hm.1, hn.1, h⟩, fun cell hc =>
    (List.mem_append.1 hc).elim (hm.2 cell) (hn.2 cell)⟩

theorem Memory.wf_cells (lo n : Nat) (f : Nat → Byte) : Memory.wf (Memory.cells lo n f) := by
  induction n with
  | zero => simp [Memory.cells, Memory.wf]
  | succ n ih =>
    rw [Memory.cells_succ]
    by_cases hf : f n = erasedByte
    · simpa [hf] using ih
    · refine Memory.wf_append ih (by simp [hf, Memory.wf]) ?_
      intro a ha b hb
      obtain ⟨i, hi, -, rfl⟩ := Memory.mem_cells.1 ha
      simp [hf] at hb
      subst hb
      simp [hi]

/-- Setting bytes keeps the canonical form. -/
theorem Memory.wf_fill {m : Memory} (h : m.wf) (lo n : Nat) (f : Nat → Byte) : (Memory.fill m lo n f).wf := by
  refine Memory.wf_append (Memory.wf_append (Memory.wf_filter h _) (Memory.wf_cells lo n f) ?_)
    (Memory.wf_filter h _) ?_
  · intro a ha b hb
    obtain ⟨i, -, -, rfl⟩ := Memory.mem_cells.1 hb
    simp at ha
    simp; omega
  · intro a ha b hb
    simp at hb
    rcases List.mem_append.1 ha with ha | ha
    · simp at ha; omega
    · obtain ⟨i, hi, -, rfl⟩ := Memory.mem_cells.1 ha
      simp; omega

/-- Clearing a range keeps the canonical form. -/
theorem Memory.wf_clear {m : Memory} (h : m.wf) (lo n : Nat) : (Memory.clear m lo n).wf :=
  Memory.wf_filter h _

/-- The byte list of a range, byte by byte. -/
@[simp] theorem Memory.bytes_length (m : Memory) (lo n : Nat) : (m.bytes lo n).length = n := by
  simp [Memory.bytes]

theorem Memory.getElem?_bytes (m : Memory) (lo n i : Nat) (h : i < n) :
    (m.bytes lo n)[i]? = some (m.read (lo + i)) := by
  simp [Memory.bytes, h]

theorem Memory.isErased_iff (m : Memory) (lo n : Nat) :
    m.isErased lo n = true ↔ ∀ i < n, m.read (lo + i) = erasedByte := by
  simp [Memory.isErased]

/-- The memory of the reset state is in canonical form. -/
theorem State.reset_memory_wf : State.reset.dev.array.wf ∧ State.reset.dev.cache.wf :=
  ⟨Memory.wf_nil, Memory.wf_nil⟩

end Sys2Proof.Machine
end

