-- ==== Sys2Proof/Laws/PerInstr.lean ====
section
/-! SUPPORT. Statements made per instruction. `FirstByte`: the encoding of every instruction begins with the byte that
spec/opcode_table.json gives as its match. -/

namespace Sys2Proof.Laws.FirstByte

/-- The match byte of an instruction's row in spec/opcode_table.json. -/
def matchByte : Instr → Byte
  | .rdid _ _ => 0x9F
  | .rdsr _ => 0x05
  | .wrsr _ _ => 0x01
  | .wren => 0x06
  | .wrdi => 0x04
  | .prdc _ => 0x13
  | .rdc _ _ => 0x03
  | .pld _ _ => 0x02
  | .pex _ => 0x10
  | .bers _ => 0xD8
  | .geometry _ _ _ => 0x00
  | .erase _ _ _ => 0x01
  | .read _ _ _ => 0x02
  | .write _ _ _ => 0x03

/-- The first byte of what a port carries: the opcode of a frame (R100), the op of a record (R109). -/
def firstByte : PortItem → Option Byte
  | .frame f => f.tx.head?
  | .request r => some r.op

/-- The instruction's encoding begins with its row's match byte. -/
def Statement (i : Instr) : Prop := firstByte (encode i) = some (matchByte i)

theorem rdid (dummy rx : Nat) : Statement (.rdid dummy rx) := rfl
theorem rdsr (reg : Byte) : Statement (.rdsr reg) := rfl
theorem wrsr (reg value : Byte) : Statement (.wrsr reg value) := rfl
theorem wren : Statement .wren := rfl
theorem wrdi : Statement .wrdi := rfl
theorem prdc (page : Half) : Statement (.prdc page) := rfl
theorem rdc (col : Half) (n : Nat) : Statement (.rdc col n) := rfl
theorem pld (col : Half) (data : List Byte) : Statement (.pld col data) := rfl
theorem pex (page : Half) : Statement (.pex page) := rfl
theorem bers (page : Half) : Statement (.bers page) := rfl
theorem geometry (offset length : Nat) (buf : Option Nat) : Statement (.geometry offset length buf) := rfl
theorem erase (offset length : Nat) (buf : Option Nat) : Statement (.erase offset length buf) := rfl
theorem read (offset length : Nat) (buf : Option Nat) : Statement (.read offset length buf) := rfl
theorem write (offset length : Nat) (buf : Option Nat) : Statement (.write offset length buf) := rfl

end Sys2Proof.Laws.FirstByte
end

