-- ==== Sys2Proof/Laws/State.lean ====
section
/-! SUPPORT. One lemma per field per named update of State, each true by rfl, so that no proof unfolds an update. -/

namespace Sys2Proof.Machine

section
variable (s : State)

@[simp] theorem State.spoilArray_cfg (lo n : Nat) : (s.spoilArray lo n).cfg = s.cfg := rfl
@[simp] theorem State.spoilArray_eng (lo n : Nat) : (s.spoilArray lo n).eng = s.eng := rfl
@[simp] theorem State.spoilArray_dev (lo n : Nat) :
    (s.spoilArray lo n).dev =
      { s.dev with array := s.dev.array.fill lo n s.draws.anyByte } := rfl
@[simp] theorem State.spoilArray_draws (lo n : Nat) : (s.spoilArray lo n).draws = s.draws.pastFill := rfl
@[simp] theorem State.spoilArray_host (lo n : Nat) : (s.spoilArray lo n).host = s.host := rfl
@[simp] theorem State.spoilArray_framePort (lo n : Nat) : (s.spoilArray lo n).framePort = s.framePort := rfl
@[simp] theorem State.spoilArray_reply (lo n : Nat) : (s.spoilArray lo n).reply = s.reply := rfl
@[simp] theorem State.spoilArray_trace (lo n : Nat) : (s.spoilArray lo n).trace = s.trace := rfl

@[simp] theorem State.spoilCache_cfg : (s.spoilCache).cfg = s.cfg := rfl
@[simp] theorem State.spoilCache_eng : (s.spoilCache).eng = s.eng := rfl
@[simp] theorem State.spoilCache_dev :
    (s.spoilCache).dev =
      { s.dev with cache := Memory.fill [] 0 s.cfg.pageSize s.draws.anyByte } := rfl
@[simp] theorem State.spoilCache_draws : (s.spoilCache).draws = s.draws.pastFill := rfl
@[simp] theorem State.spoilCache_host : (s.spoilCache).host = s.host := rfl
@[simp] theorem State.spoilCache_framePort : (s.spoilCache).framePort = s.framePort := rfl
@[simp] theorem State.spoilCache_reply : (s.spoilCache).reply = s.reply := rfl
@[simp] theorem State.spoilCache_trace : (s.spoilCache).trace = s.trace := rfl

@[simp] theorem State.raise_cfg (e : ErrorCode) : (s.raise e).cfg = s.cfg := rfl
@[simp] theorem State.raise_eng (e : ErrorCode) :
    (s.raise e).eng =
      { s.eng with result := e, count := 0, maybeBusy := s.eng.maybeBusy || e.leavesBusy, pc := .respond } := rfl
@[simp] theorem State.raise_dev (e : ErrorCode) : (s.raise e).dev = s.dev := rfl
@[simp] theorem State.raise_draws (e : ErrorCode) : (s.raise e).draws = s.draws := rfl
@[simp] theorem State.raise_host (e : ErrorCode) : (s.raise e).host = s.host := rfl
@[simp] theorem State.raise_framePort (e : ErrorCode) : (s.raise e).framePort = s.framePort := rfl
@[simp] theorem State.raise_reply (e : ErrorCode) : (s.raise e).reply = s.reply := rfl
@[simp] theorem State.raise_trace (e : ErrorCode) : (s.raise e).trace = s.trace := rfl

@[simp] theorem State.finish_cfg (n : Nat) : (s.finish n).cfg = s.cfg := rfl
@[simp] theorem State.finish_eng (n : Nat) : (s.finish n).eng = { s.eng with count := n, pc := .respond } := rfl
@[simp] theorem State.finish_dev (n : Nat) : (s.finish n).dev = s.dev := rfl
@[simp] theorem State.finish_draws (n : Nat) : (s.finish n).draws = s.draws := rfl
@[simp] theorem State.finish_host (n : Nat) : (s.finish n).host = s.host := rfl
@[simp] theorem State.finish_framePort (n : Nat) : (s.finish n).framePort = s.framePort := rfl
@[simp] theorem State.finish_reply (n : Nat) : (s.finish n).reply = s.reply := rfl
@[simp] theorem State.finish_trace (n : Nat) : (s.finish n).trace = s.trace := rfl

@[simp] theorem State.respond_cfg : (s.respond).cfg = s.cfg := rfl
@[simp] theorem State.respond_eng :
    (s.respond).eng =
      { s.eng with pc := if s.eng.wasDead then .dead else .idle } := rfl
@[simp] theorem State.respond_dev : (s.respond).dev = s.dev := rfl
@[simp] theorem State.respond_draws : (s.respond).draws = s.draws := rfl
@[simp] theorem State.respond_host : (s.respond).host = { s.host with response := some s.responseRecord } := rfl
@[simp] theorem State.respond_framePort : (s.respond).framePort = s.framePort := rfl
@[simp] theorem State.respond_reply : (s.respond).reply = s.reply := rfl
@[simp] theorem State.respond_trace : (s.respond).trace = s.trace := rfl

@[simp] theorem State.resetEngine_cfg : (s.resetEngine).cfg = s.cfg := rfl
@[simp] theorem State.resetEngine_eng : (s.resetEngine).eng = Engine.reset := rfl
@[simp] theorem State.resetEngine_dev : (s.resetEngine).dev = s.dev := rfl
@[simp] theorem State.resetEngine_draws : (s.resetEngine).draws = s.draws := rfl
@[simp] theorem State.resetEngine_host : (s.resetEngine).host = s.host := rfl
@[simp] theorem State.resetEngine_framePort : (s.resetEngine).framePort = s.framePort := rfl
@[simp] theorem State.resetEngine_reply : (s.resetEngine).reply = s.reply := rfl
@[simp] theorem State.resetEngine_trace : (s.resetEngine).trace = [] := rfl

@[simp] theorem State.takeMove_cfg : (s.takeMove).cfg = s.cfg := rfl
@[simp] theorem State.takeMove_eng :
    (s.takeMove).eng =
      { s.eng with cancel := s.eng.cancel || (s.eng.pc.inFlight && s.host.moves.head? == some .cancel) } := rfl
@[simp] theorem State.takeMove_dev : (s.takeMove).dev = s.dev := rfl
@[simp] theorem State.takeMove_draws : (s.takeMove).draws = s.draws := rfl
@[simp] theorem State.takeMove_host : (s.takeMove).host = { s.host with moves := s.host.moves.tail } := rfl
@[simp] theorem State.takeMove_framePort : (s.takeMove).framePort = s.framePort := rfl
@[simp] theorem State.takeMove_reply : (s.takeMove).reply = s.reply := rfl
@[simp] theorem State.takeMove_trace : (s.takeMove).trace = s.trace := rfl

@[simp] theorem State.deviceFault_cfg : (s.deviceFault).cfg = s.cfg := rfl
@[simp] theorem State.deviceFault_eng : (s.deviceFault).eng = s.eng := rfl
@[simp] theorem State.deviceFault_dev : (s.deviceFault).dev = { s.dev with dfault := true } := rfl
@[simp] theorem State.deviceFault_draws : (s.deviceFault).draws = s.draws := rfl
@[simp] theorem State.deviceFault_host : (s.deviceFault).host = s.host := rfl
@[simp] theorem State.deviceFault_framePort : (s.deviceFault).framePort = s.framePort := rfl
@[simp] theorem State.deviceFault_reply : (s.deviceFault).reply = s.reply := rfl
@[simp] theorem State.deviceFault_trace : (s.deviceFault).trace = s.trace := rfl

@[simp] theorem State.begin_cfg (p : Pending) : (s.begin p).cfg = s.cfg := rfl
@[simp] theorem State.begin_eng (p : Pending) : (s.begin p).eng = s.eng := rfl
@[simp] theorem State.begin_dev (p : Pending) : (s.begin p).dev = { s.dev with pending := some p } := rfl
@[simp] theorem State.begin_draws (p : Pending) : (s.begin p).draws = s.draws := rfl
@[simp] theorem State.begin_host (p : Pending) : (s.begin p).host = s.host := rfl
@[simp] theorem State.begin_framePort (p : Pending) : (s.begin p).framePort = s.framePort := rfl
@[simp] theorem State.begin_reply (p : Pending) : (s.begin p).reply = s.reply := rfl
@[simp] theorem State.begin_trace (p : Pending) : (s.begin p).trace = s.trace := rfl

@[simp] theorem State.goto_cfg (p : Pc) : (s.goto p).cfg = s.cfg := rfl
@[simp] theorem State.goto_eng (p : Pc) : (s.goto p).eng = { s.eng with pc := p } := rfl
@[simp] theorem State.goto_dev (p : Pc) : (s.goto p).dev = s.dev := rfl
@[simp] theorem State.goto_draws (p : Pc) : (s.goto p).draws = s.draws := rfl
@[simp] theorem State.goto_host (p : Pc) : (s.goto p).host = s.host := rfl
@[simp] theorem State.goto_framePort (p : Pc) : (s.goto p).framePort = s.framePort := rfl
@[simp] theorem State.goto_reply (p : Pc) : (s.goto p).reply = s.reply := rfl
@[simp] theorem State.goto_trace (p : Pc) : (s.goto p).trace = s.trace := rfl

@[simp] theorem State.startAwait_cfg (mask : Byte) : (s.startAwait mask).cfg = s.cfg := rfl
@[simp] theorem State.startAwait_eng (mask : Byte) :
    (s.startAwait mask).eng =
      { s.eng with mask := mask, polls := 0 } := rfl
@[simp] theorem State.startAwait_dev (mask : Byte) : (s.startAwait mask).dev = s.dev := rfl
@[simp] theorem State.startAwait_draws (mask : Byte) : (s.startAwait mask).draws = s.draws := rfl
@[simp] theorem State.startAwait_host (mask : Byte) : (s.startAwait mask).host = s.host := rfl
@[simp] theorem State.startAwait_framePort (mask : Byte) : (s.startAwait mask).framePort = s.framePort := rfl
@[simp] theorem State.startAwait_reply (mask : Byte) : (s.startAwait mask).reply = s.reply := rfl
@[simp] theorem State.startAwait_trace (mask : Byte) : (s.startAwait mask).trace = s.trace := rfl

@[simp] theorem State.unitReady_cfg (p : Pc) : (s.unitReady p).cfg = s.cfg := rfl
@[simp] theorem State.unitReady_eng (p : Pc) :
    (s.unitReady p).eng =
      { s.eng with pc := p, unit := s.eng.unit + 1 } := rfl
@[simp] theorem State.unitReady_dev (p : Pc) : (s.unitReady p).dev = s.dev := rfl
@[simp] theorem State.unitReady_draws (p : Pc) : (s.unitReady p).draws = s.draws := rfl
@[simp] theorem State.unitReady_host (p : Pc) : (s.unitReady p).host = s.host := rfl
@[simp] theorem State.unitReady_framePort (p : Pc) : (s.unitReady p).framePort = s.framePort := rfl
@[simp] theorem State.unitReady_reply (p : Pc) : (s.unitReady p).reply = s.reply := rfl
@[simp] theorem State.unitReady_trace (p : Pc) : (s.unitReady p).trace = s.trace := rfl

@[simp] theorem State.wait_cfg : (s.wait).cfg = s.cfg := rfl
@[simp] theorem State.wait_eng : (s.wait).eng = s.eng := rfl
@[simp] theorem State.wait_dev : (s.wait).dev = s.dev := rfl
@[simp] theorem State.wait_draws : (s.wait).draws = s.draws := rfl
@[simp] theorem State.wait_host : (s.wait).host = s.host := rfl
@[simp] theorem State.wait_framePort : (s.wait).framePort = s.framePort := rfl
@[simp] theorem State.wait_reply : (s.wait).reply = s.reply := rfl
@[simp] theorem State.wait_trace : (s.wait).trace = s.trace ++ [.wait] := rfl

@[simp] theorem State.accept_cfg (r : Request) : (s.accept r).cfg = s.cfg := rfl
@[simp] theorem State.accept_eng (r : Request) :
    (s.accept r).eng =
      { s.eng with
          op := r.op
          offset := r.offset
          length := r.length
          buf := r.buf
          cancel := false
          result := .ok
          count := 0
          wasDead := s.eng.pc == .dead } := rfl
@[simp] theorem State.accept_dev (r : Request) : (s.accept r).dev = s.dev := rfl
@[simp] theorem State.accept_draws (r : Request) : (s.accept r).draws = s.draws := rfl
@[simp] theorem State.accept_host (r : Request) : (s.accept r).host = s.host := rfl
@[simp] theorem State.accept_framePort (r : Request) : (s.accept r).framePort = s.framePort := rfl
@[simp] theorem State.accept_reply (r : Request) : (s.accept r).reply = s.reply := rfl
@[simp] theorem State.accept_trace (r : Request) : (s.accept r).trace = [] := rfl

@[simp] theorem State.completeLoad_cfg (page : Nat) : (s.completeLoad page).cfg = s.cfg := rfl
@[simp] theorem State.completeLoad_eng (page : Nat) : (s.completeLoad page).eng = s.eng := rfl
@[simp] theorem State.completeLoad_dev (page : Nat) :
    (s.completeLoad page).dev =
      { s.dev with
          cache := Memory.fill [] 0 s.cfg.pageSize (fun i => s.dev.array.read (pageBase s.cfg page + i))
          pending := none } := rfl
@[simp] theorem State.completeLoad_draws (page : Nat) : (s.completeLoad page).draws = s.draws := rfl
@[simp] theorem State.completeLoad_host (page : Nat) : (s.completeLoad page).host = s.host := rfl
@[simp] theorem State.completeLoad_framePort (page : Nat) : (s.completeLoad page).framePort = s.framePort := rfl
@[simp] theorem State.completeLoad_reply (page : Nat) : (s.completeLoad page).reply = s.reply := rfl
@[simp] theorem State.completeLoad_trace (page : Nat) : (s.completeLoad page).trace = s.trace := rfl

@[simp] theorem State.enterRecover_cfg : (s.enterRecover).cfg = s.cfg := rfl
@[simp] theorem State.enterRecover_eng :
    (s.enterRecover).eng =
      { s.eng with mask := noMask, polls := 0, pc := .recover } := rfl
@[simp] theorem State.enterRecover_dev : (s.enterRecover).dev = s.dev := rfl
@[simp] theorem State.enterRecover_draws : (s.enterRecover).draws = s.draws := rfl
@[simp] theorem State.enterRecover_host : (s.enterRecover).host = s.host := rfl
@[simp] theorem State.enterRecover_framePort : (s.enterRecover).framePort = s.framePort := rfl
@[simp] theorem State.enterRecover_reply : (s.enterRecover).reply = s.reply := rfl
@[simp] theorem State.enterRecover_trace : (s.enterRecover).trace = s.trace := rfl

@[simp] theorem State.loadSlice_cfg : (s.loadSlice).cfg = s.cfg := rfl
@[simp] theorem State.loadSlice_eng :
    (s.loadSlice).eng =
      { s.eng with
          page := (sliceAt s.cfg s.eng.offset s.eng.length s.eng.unit).page
          col := (sliceAt s.cfg s.eng.offset s.eng.length s.eng.unit).columnOffset
          slen := (sliceAt s.cfg s.eng.offset s.eng.length s.eng.unit).lengthInPage
          dst := (sliceAt s.cfg s.eng.offset s.eng.length s.eng.unit).dst } := rfl
@[simp] theorem State.loadSlice_dev : (s.loadSlice).dev = s.dev := rfl
@[simp] theorem State.loadSlice_draws : (s.loadSlice).draws = s.draws := rfl
@[simp] theorem State.loadSlice_host : (s.loadSlice).host = s.host := rfl
@[simp] theorem State.loadSlice_framePort : (s.loadSlice).framePort = s.framePort := rfl
@[simp] theorem State.loadSlice_reply : (s.loadSlice).reply = s.reply := rfl
@[simp] theorem State.loadSlice_trace : (s.loadSlice).trace = s.trace := rfl

end

end Sys2Proof.Machine
end

