-- ==== Sys2Proof/Laws/Spi.lean ====
section
/-! SUPPORT. What a frame transaction can do: nothing outside the device, its draws, the reply and the trace; and what
each frame the engine sends is to the device. -/

namespace Sys2Proof.Machine

/-- A device action that touches nothing but the device and its draws. -/
def DeviceOnly (device : State → List Byte × State) : Prop :=
  ∀ s : State, (device s).2.cfg = s.cfg ∧ (device s).2.eng = s.eng ∧ (device s).2.host = s.host ∧
    (device s).2.framePort = s.framePort ∧ (device s).2.trace = s.trace

/-- A device operation that touches nothing but the device and its draws. -/
def DeviceStep (op : State → State) : Prop :=
  ∀ s : State, (op s).cfg = s.cfg ∧ (op s).eng = s.eng ∧ (op s).host = s.host ∧
    (op s).framePort = s.framePort ∧ (op s).trace = s.trace

theorem deviceStep_devCheck : DeviceStep State.devCheck := by
  intro s; unfold State.devCheck; split <;> simp

theorem deviceStep_spoilPage (page : Nat) : DeviceStep fun s => s.spoilPage page := by
  intro s; simp [State.spoilPage]

theorem deviceStep_spoilBlock (page : Nat) : DeviceStep fun s => s.spoilBlock page := by
  intro s; simp [State.spoilBlock]

theorem deviceStep_eraseArray (page : Nat) (ok : Bool) : DeviceStep fun s => s.eraseArray page ok := by
  intro s; simp only [State.eraseArray]; split
  · simp
  · exact deviceStep_spoilBlock page s

theorem deviceStep_programArray (page : Nat) (ok : Bool) : DeviceStep fun s => s.programArray page ok := by
  intro s; simp only [State.programArray]; split
  · simp
  · exact deviceStep_spoilPage page s

theorem deviceStep_completeErase (page : Nat) : DeviceStep fun s => s.completeErase page := by
  intro s
  have h := deviceStep_eraseArray page s.draws.succeedsNow { s with draws := s.draws.pastSucceeds }
  simp only [State.completeErase, State.spoilCache_cfg, State.spoilCache_eng, State.spoilCache_host,
    State.spoilCache_framePort, State.spoilCache_trace]
  exact h

theorem deviceStep_completeProgram (page : Nat) : DeviceStep fun s => s.completeProgram page := by
  intro s
  have h := deviceStep_programArray page s.draws.succeedsNow { s with draws := s.draws.pastSucceeds }
  simp only [State.completeProgram, State.spoilCache_cfg, State.spoilCache_eng, State.spoilCache_host,
    State.spoilCache_framePort, State.spoilCache_trace]
  exact h

theorem deviceStep_complete : DeviceStep State.complete := by
  intro s; unfold State.complete; split
  · simp
  · simp
  · exact deviceStep_completeErase _ s
  · exact deviceStep_completeProgram _ s

theorem deviceStep_maybeComplete : DeviceStep State.maybeComplete := by
  intro s
  have h := deviceStep_complete { s with draws := s.draws.pastCompletes }
  simp only [State.maybeComplete]
  split
  · split
    · exact h
    · simp
  · simp

@[simp] theorem State.answerNothing_snd (s : State) : s.answerNothing.2 = s := rfl

@[simp] theorem State.answerNothing_fst (s : State) : s.answerNothing.1 = [] := rfl

theorem deviceOnly_answerAny (n : Nat) : DeviceOnly fun s => s.answerAny n := by
  intro s; simp [State.answerAny]

theorem deviceOnly_answer (honest : List Byte) : DeviceOnly fun s => s.answer honest := by
  intro s; simp only [State.answer]; split
  · exact deviceOnly_answerAny _ s
  · simp

/-- A device step followed by a device action is a device action. -/
theorem DeviceOnly.after {op : State → State} {device : State → List Byte × State} (hd : DeviceOnly device)
    (ho : DeviceStep op) : DeviceOnly fun s => device (op s) := by
  intro s
  obtain ⟨a1, a2, a3, a4, a5⟩ := hd (op s)
  obtain ⟨b1, b2, b3, b4, b5⟩ := ho s
  exact ⟨a1.trans b1, a2.trans b2, a3.trans b3, a4.trans b4, a5.trans b5⟩

theorem deviceOnly_devReject (rx : Nat) : DeviceOnly (devReject rx) := by
  intro s
  obtain ⟨b1, b2, b3, b4, b5⟩ := deviceStep_devCheck s
  simp [devReject, State.answerAny, b1, b2, b3, b4, b5]

/-- Every command touches nothing but the device and its draws. -/
theorem deviceOnly_deviceOf (rx : Nat) (i : Instr) : DeviceOnly (deviceOf rx i) := by
  intro s
  obtain ⟨b1, b2, b3, b4, b5⟩ := deviceStep_devCheck s
  obtain ⟨c1, c2, c3, c4, c5⟩ := deviceStep_maybeComplete s
  cases i with
  | rdid dummy n =>
    simp only [deviceOf, devRdid]; split
    · simp [State.answerAny, b1, b2, b3, b4, b5]
    · exact deviceOnly_devReject _ s
  | rdsr reg =>
    simp only [deviceOf, devRdsr]; split
    · obtain ⟨d1, d2, d3, d4, d5⟩ := deviceOnly_answer
        [statusByte s.maybeComplete.dev s.maybeComplete.draws.byteNow]
        { s.maybeComplete with draws := s.maybeComplete.draws.pastByte }
      exact ⟨d1.trans c1, d2.trans c2, d3.trans c3, d4.trans c4, d5.trans c5⟩
    · split
      · exact deviceOnly_answer _ s
      · exact deviceOnly_answerAny _ s
  | wrsr reg value => simp only [deviceOf, devWrsr]; split <;> simp [b1, b2, b3, b4, b5]
  | wren => simp [deviceOf, devWren, b1, b2, b3, b4, b5]
  | wrdi => simp [deviceOf, devWrdi, b1, b2, b3, b4, b5]
  | prdc page => simp only [deviceOf, devPrdc]; split <;> simp [b1, b2, b3, b4, b5]
  | rdc col n =>
    simp only [deviceOf, devRdc]; split
    · simp [State.answerAny, b1, b2, b3, b4, b5]
    · obtain ⟨d1, d2, d3, d4, d5⟩ := deviceOnly_answer (s.devCheck.dev.cache.bytes col.toNat n) s.devCheck
      exact ⟨d1.trans b1, d2.trans b2, d3.trans b3, d4.trans b4, d5.trans b5⟩
  | pld col data => simp only [deviceOf, devPld]; split <;> simp [b1, b2, b3, b4, b5]
  | pex page => simp only [deviceOf, devPex]; split <;> simp [b1, b2, b3, b4, b5]
  | bers page => simp only [deviceOf, devBers]; split <;> simp [b1, b2, b3, b4, b5]
  | geometry _ _ _ => exact deviceOnly_devReject _ s
  | erase _ _ _ => exact deviceOnly_devReject _ s
  | read _ _ _ => exact deviceOnly_devReject _ s
  | write _ _ _ => exact deviceOnly_devReject _ s

/-- Whatever frame the device takes, it touches nothing but itself and its draws. -/
theorem deviceOnly_deviceReceives (f : Frame) : DeviceOnly (deviceReceives f) := by
  unfold deviceReceives; split
  · exact deviceOnly_deviceOf _ _
  · exact deviceOnly_devReject _

/-- The one spec of a frame transaction: it is answered by the device, or the transport fails with the device's
action done or not. -/
theorem State.transact_cases (s : State) (device : State → List Byte × State) :
    let t := { s with draws := s.draws.pastTransport }
    (s.draws.transportNow = .answered ∧ s.transact device = { (device t).2 with reply := .data (device t).1 }) ∨
    (s.draws.transportNow = .errorActed ∧ s.transact device = { (device t).2 with reply := .transportError }) ∨
    (s.draws.transportNow = .errorIgnored ∧ s.transact device = { t with reply := .transportError }) := by
  unfold State.transact
  cases h : s.draws.transportNow <;> simp

/-- A frame transaction leaves the engine, the host and the trace alone. -/
theorem State.transact_sameEngine {device : State → List Byte × State} (hd : DeviceOnly device) (s : State) :
    State.SameEngine s (s.transact device) := by
  obtain ⟨h1, h2, h3, h4, h5⟩ := hd { s with draws := s.draws.pastTransport }
  rcases s.transact_cases device with ⟨-, h⟩ | ⟨-, h⟩ | ⟨-, h⟩ <;> rw [h]
  · exact ⟨h1, h2, h3, h4, h5⟩
  · exact ⟨h1, h2, h3, h4, h5⟩
  · exact ⟨rfl, rfl, rfl, rfl, rfl⟩

section
variable (s : State) (tx : List Byte) (rx : Nat)

theorem State.send_sameEngine :
    State.SameEngine { s with trace := s.trace ++ [.frame tx rx] } (s.send tx rx) :=
  State.transact_sameEngine (deviceOnly_deviceReceives _) _

@[simp] theorem State.send_cfg : (s.send tx rx).cfg = s.cfg := (s.send_sameEngine tx rx).cfg

@[simp] theorem State.send_eng : (s.send tx rx).eng = s.eng := (s.send_sameEngine tx rx).eng

@[simp] theorem State.send_host : (s.send tx rx).host = s.host := (s.send_sameEngine tx rx).host

@[simp] theorem State.send_framePort : (s.send tx rx).framePort = s.framePort := (s.send_sameEngine tx rx).framePort

@[simp] theorem State.send_trace : (s.send tx rx).trace = s.trace ++ [.frame tx rx] :=
  (s.send_sameEngine tx rx).trace

end

/-! ### The engine's own frames, as the device performs them -/

section
variable (page : Nat)

@[simp] theorem deviceReceives_wren : deviceReceives ⟨[opcWren], 0⟩ = devWren := by simp [deviceReceives, deviceOf]

@[simp] theorem deviceReceives_wrdi : deviceReceives ⟨[opcWrdi], 0⟩ = devWrdi := by simp [deviceReceives, deviceOf]

@[simp] theorem deviceReceives_rdsr (reg : Byte) : deviceReceives ⟨[opcRdsr, reg], 1⟩ = devRdsr reg := by
  simp [deviceReceives, deviceOf]

@[simp] theorem deviceReceives_wrsr (reg value : Byte) :
    deviceReceives ⟨[opcWrsr, reg, value], 0⟩ = devWrsr reg value := by simp [deviceReceives, deviceOf]

@[simp] theorem deviceReceives_prdc : deviceReceives ⟨pageFrame opcPrdc page, 0⟩ = devPrdc (field16 page) := by
  simp [deviceReceives, deviceOf]

@[simp] theorem deviceReceives_pex : deviceReceives ⟨pageFrame opcPex page, 0⟩ = devPex (field16 page) := by
  simp [deviceReceives, deviceOf]

@[simp] theorem deviceReceives_bers : deviceReceives ⟨pageFrame opcBers page, 0⟩ = devBers (field16 page) := by
  simp [deviceReceives, deviceOf]

@[simp] theorem deviceReceives_pld (data : List Byte) :
    deviceReceives ⟨opcPld :: 0x00 :: 0x00 :: data, 0⟩ = devPld 0 data := by
  unfold deviceReceives; rw [decodeFrame_pld]; rfl

theorem deviceReceives_rdc (col n : Nat) (hn : n ≠ 0) :
    deviceReceives ⟨readCacheFrame col, n⟩ = devRdc (field16 col) n := by
  simp [deviceReceives, deviceOf, hn]

end

/-! ### What a status read and a transaction leave -/

/-- An answered transaction is the device's action, with its bytes as the reply. -/
theorem State.transact_answered {s : State} {device : State → List Byte × State}
    (h : s.draws.transportNow = .answered) :
    s.transact device =
      let r := device { s with draws := s.draws.pastTransport }
      { r.2 with reply := .data r.1 } := by
  simp [State.transact, h]

/-- Unless the frame was lost, the device is as its action leaves it. -/
theorem State.transact_dev {s : State} {device : State → List Byte × State}
    (h : s.draws.transportNow ≠ .errorIgnored) :
    (s.transact device).dev = (device { s with draws := s.draws.pastTransport }).2.dev := by
  rcases s.transact_cases device with ⟨-, ht⟩ | ⟨-, ht⟩ | ⟨ht, -⟩
  · rw [ht]
  · rw [ht]
  · exact absurd ht h

/-- Every SPI command is one transaction of its device action. -/
theorem exec_command {i : Instr} (h : i.isCommand = true) (s : State) :
    exec i s = .next (s.transact (deviceOf 0 i)) := by
  cases i <;> first | rfl | cases h

/-- A reply changes the device only through its draws. -/
@[simp] theorem State.answer_dev (s : State) (honest : List Byte) : (s.answer honest).2.dev = s.dev := by
  simp only [State.answer]; split <;> rfl

/-- A reply has the length its rule gives, honest or not. -/
@[simp] theorem State.answer_length (s : State) (honest : List Byte) :
    (s.answer honest).1.length = honest.length := by
  simp only [State.answer]; split <;> simp [State.answerAny, Draws.anyBytes]

/-- The named bits of the status byte (spec/10_state.md R35). -/
theorem statusByte_bits (d : Device) (any : Byte) :
    (statusByte d any).getLsbD 0 = d.busy ∧ (statusByte d any).getLsbD 2 = d.efail ∧
      (statusByte d any).getLsbD 3 = d.pfail := by
  simp only [statusByte, BitVec.getLsbD_or, BitVec.getLsbD_and, bitAt, efailMask, pfailMask]
  cases d.busy <;> cases d.efail <;> cases d.pfail <;> simp

/-- A status read answers one byte. -/
theorem devRdsr_length (reg : Byte) (s : State) : (devRdsr reg s).1.length = 1 := by
  simp only [devRdsr]
  split_ifs <;> simp [State.answerAny, Draws.anyBytes]

/-- The engine's status read is answered by one byte or by an error. -/
theorem State.send_status_reply (s : State) (reg : Byte) :
    (s.send [opcRdsr, reg] 1).reply = .transportError ∨ ∃ b, (s.send [opcRdsr, reg] 1).reply = .data [b] := by
  simp only [State.send, deviceReceives_rdsr]
  rcases State.transact_cases { s with trace := s.trace ++ [.frame [opcRdsr, reg] 1] } (devRdsr reg)
    with ⟨-, h⟩ | ⟨-, h⟩ | ⟨-, h⟩ <;> rw [h]
  · obtain ⟨b, hb⟩ := List.length_eq_one_iff.1
      (devRdsr_length reg { s with trace := s.trace ++ [.frame [opcRdsr, reg] 1], draws := s.draws.pastTransport })
    exact .inr ⟨b, congrArg Reply.data hb⟩
  · exact .inl rfl
  · exact .inl rfl

end Sys2Proof.Machine
end

