-- ==== Sys2Proof/Laws/Sequencer.lean ====
section
/-! SUPPORT. What the parts of a sequence can do: the end of an unsettled unit, a frame of a unit, a status read of an
await; and the one induction over a request in flight. -/

namespace Sys2Proof.Machine

/-! ### The end of an unsettled unit -/

section
variable (s : State)

/-- New buffer contents change nothing but the buffers. -/
theorem State.setBuffer_rest (b : List Byte) :
    (s.setBuffer b).cfg = s.cfg ∧ (s.setBuffer b).eng = s.eng ∧ (s.setBuffer b).dev = s.dev ∧
      (s.setBuffer b).draws = s.draws ∧ (s.setBuffer b).framePort = s.framePort ∧
      (s.setBuffer b).reply = s.reply ∧ (s.setBuffer b).trace = s.trace := by
  simp only [State.setBuffer]; split <;> simp

/-- Spoiling a buffer changes nothing but the buffers and the draws. -/
theorem State.spoilBuffer_rest (i : Nat) :
    (s.spoilBuffer i).cfg = s.cfg ∧ (s.spoilBuffer i).eng = s.eng ∧ (s.spoilBuffer i).dev = s.dev ∧
      (s.spoilBuffer i).framePort = s.framePort ∧ (s.spoilBuffer i).reply = s.reply ∧
      (s.spoilBuffer i).trace = s.trace := by
  simp only [State.spoilBuffer]
  split
  · simp
  · rename_i b _
    obtain ⟨h1, h2, h3, -, h5, h6, h7⟩ := s.setBuffer_rest (b.take i ++ s.draws.anyBytes (b.length - i))
    exact ⟨h1, h2, h3, h5, h6, h7⟩

/-- The end of an unsettled unit changes no register, and of the device only the array. -/
theorem State.spoilUnit_rest :
    s.spoilUnit.cfg = s.cfg ∧ s.spoilUnit.eng = s.eng ∧ s.spoilUnit.dev = { s.dev with array := s.spoilUnit.dev.array } ∧
      s.spoilUnit.framePort = s.framePort ∧ s.spoilUnit.reply = s.reply ∧ s.spoilUnit.trace = s.trace := by
  obtain ⟨h1, h2, h3, h4, h5, h6⟩ :=
    s.spoilBuffer_rest (sliceAt s.cfg s.eng.offset s.eng.length s.eng.unit).dst
  simp only [State.spoilUnit]
  split_ifs
  · simp [State.spoilBlock]
  · simp [State.spoilPage]
  · exact ⟨h1, h2, by rw [h3], h4, h5, h6⟩
  · simp

/-- The registers after an unsettled unit are those of `raise`. -/
@[simp] theorem State.abortUnit_eng (e : ErrorCode) : (s.abortUnit e).eng = (s.raise e).eng := by
  simp [State.abortUnit, s.spoilUnit_rest.2.1]

@[simp] theorem State.abortUnit_cfg (e : ErrorCode) : (s.abortUnit e).cfg = s.cfg := s.spoilUnit_rest.1

@[simp] theorem State.abortUnit_framePort (e : ErrorCode) : (s.abortUnit e).framePort = s.framePort :=
  s.spoilUnit_rest.2.2.2.1

@[simp] theorem State.abortUnit_reply (e : ErrorCode) : (s.abortUnit e).reply = s.reply := s.spoilUnit_rest.2.2.2.2.1

@[simp] theorem State.abortUnit_trace (e : ErrorCode) : (s.abortUnit e).trace = s.trace := s.spoilUnit_rest.2.2.2.2.2

/-! ### A frame of a unit, and a status read of an await -/

/-- What a frame of a unit does to the engine: it enters the trace, and `pc` moves on, or the request ends. -/
theorem State.unitFrame_spec (tx : List Byte) (next : Pc) :
    let t := s.unitFrame tx next
    t.trace = s.trace ++ [.frame tx 0] ∧
      (t.reply ≠ .transportError → t.eng = { s.eng with pc := next }) ∧
      (t.reply = .transportError → t.eng = (s.raise .transportError).eng) := by
  simp only [State.unitFrame]
  cases h : (s.send tx 0).reply <;> simp [h]

/-- What a status read of an await does to the engine. -/
theorem State.poll_spec (polling : Pc) (onError : State → State) :
    ∃ t, State.SameEngine { s with trace := s.trace ++ [.frame [opcRdsr, statusReg] 1] } t ∧
      t = s.send [opcRdsr, statusReg] 1 ∧
      (t.reply = .transportError ∧ s.poll polling onError = onError t ∨
        ∃ b, t.reply = .data [b] ∧
          s.poll polling onError =
            { t with eng := { t.eng with status := b, polls := t.eng.polls + 1, pc := polling } }) := by
  refine ⟨_, s.send_sameEngine _ _, rfl, ?_⟩
  simp only [State.poll]
  rcases s.send_status_reply statusReg with h | ⟨b, h⟩
  · exact .inl ⟨h, by rw [h]⟩
  · exact .inr ⟨b, h, by rw [h]; rfl⟩

/-- With no reset from the host, a transition takes the host's move and then the sequencer moves. -/
theorem State.transition_of_no_reset (h : s.resetNow = false) : s.transition = s.takeMove.seq := by
  simp [State.transition, h]

/-- A host that never resets does not reset now. -/
theorem State.resetNow_of_noReset (h : s.NoReset) : s.resetNow = false := by
  simp only [State.resetNow, beq_eq_false_iff_ne, ne_eq]
  intro hm
  exact h (List.mem_of_mem_head? (by rw [hm]; rfl))

end

/-! ### The trace only grows -/

section
variable (s : State)

/-- The trace of the second state continues that of the first. -/
def TraceGrows (s t : State) : Prop := s.trace <+: t.trace

theorem TraceGrows.refl : TraceGrows s s := List.prefix_refl _

theorem State.raiseCancelled_trace : s.raiseCancelled.trace = s.trace := by
  unfold State.raiseCancelled
  split <;> simp [s.spoilUnit_rest.2.2.2.2.2]

theorem State.raiseBeforeUnits_trace (e : ErrorCode) : (s.raiseBeforeUnits e).trace = s.trace := by
  unfold State.raiseBeforeUnits
  split <;> simp [(s.spoilBuffer_rest 0).2.2.2.2.2]

theorem State.loopTest_trace : s.loopTest.trace = s.trace := by unfold State.loopTest; split <;> rfl

theorem State.unitFrame_traceGrows (tx : List Byte) (pc : Pc) : TraceGrows s (s.unitFrame tx pc) :=
  ⟨_, (s.unitFrame_spec tx pc).1.symm⟩

/-- A status read lets the trace grow if its error branch keeps it. -/
theorem State.poll_traceGrows (polling : Pc) {onError : State → State} (h : ∀ t, (onError t).trace = t.trace) :
    TraceGrows s (s.poll polling onError) := by
  obtain ⟨t, ht, -, ⟨-, hp⟩ | ⟨b, -, hp⟩⟩ := s.poll_spec polling onError
  · rw [hp, TraceGrows, h, ht.trace]; exact List.prefix_append _ _
  · rw [hp, TraceGrows, ht.trace]; exact List.prefix_append _ _

theorem State.pollUnit_traceGrows (polling : Pc) : TraceGrows s (s.pollUnit polling) :=
  s.poll_traceGrows polling fun t => t.abortUnit_trace _

theorem State.pollRecover_traceGrows : TraceGrows s s.pollRecover :=
  s.poll_traceGrows .recover fun t => t.raiseBeforeUnits_trace _

/-- Waiting before a read is growth too. -/
theorem TraceGrows.after_wait {s t : State} (h : TraceGrows s.wait t) : TraceGrows s t :=
  (List.prefix_append s.trace [.wait]).trans h

theorem State.seqBusy_traceGrows (polling : Pc) {settled failed : State → State}
    (hs : (settled s).trace = s.trace) (hf : (failed s).trace = s.trace) :
    TraceGrows s (s.seqBusy polling settled failed) := by
  unfold State.seqBusy
  split
  · rw [TraceGrows, hs]
  · rw [TraceGrows, hf]
  · rw [TraceGrows, State.abortUnit_trace]
  · exact (s.wait.pollUnit_traceGrows polling).after_wait

theorem State.seqRecover_traceGrows : TraceGrows s s.seqRecover := by
  unfold State.seqRecover
  split
  · exact s.pollRecover_traceGrows
  · split
    · rw [TraceGrows, State.firstUnit, State.loopTest_trace]
    · rw [TraceGrows, State.firstUnit, State.loopTest_trace]
    · rw [TraceGrows, State.raiseBeforeUnits_trace]
    · exact s.wait.pollRecover_traceGrows.after_wait

/-- The memory write of a read slice keeps the trace. -/
theorem State.memWrite_trace {t : State} {i : Nat} {v : List Byte} (h : s.memWrite i v = some t) :
    t.trace = s.trace := by
  unfold State.memWrite at h
  split at h
  · cases h
  · split at h
    · cases h; exact (s.setBuffer_rest _).2.2.2.2.2.2
    · cases h

/-- Every move of the sequencer lets the trace grow. -/
theorem State.seq_traceGrows {t : State} (h : s.seq = .next t) : TraceGrows s t := by
  have sent : ∀ tx rx, TraceGrows s (s.send tx rx) := fun tx rx => ⟨_, (s.send_trace tx rx).symm⟩
  have awaited : ∀ mask polling, TraceGrows s ((s.startAwait mask).pollUnit polling) :=
    fun mask polling => (s.startAwait mask).pollUnit_traceGrows polling
  unfold State.seq at h
  split at h
  case h_1 => cases h; simp only [State.seqBringup]; split <;> exact sent _ _
  case h_2 => cases h; exact TraceGrows.refl s
  case h_3 => cases h; exact TraceGrows.refl s
  case h_4 => cases h; exact s.seqRecover_traceGrows
  case h_5 =>
    cases h; unfold State.seqEUnit; split
    · rw [TraceGrows, State.raiseCancelled_trace]
    · rw [TraceGrows, (State.unitFrame_spec _ _ _).1]; exact List.prefix_append _ _
  case h_6 => cases h; exact s.unitFrame_traceGrows _ _
  case h_7 => cases h; exact awaited _ _
  case h_8 => cases h; exact s.seqBusy_traceGrows _ rfl rfl
  case h_9 => cases h; rw [TraceGrows, State.loopTest_trace]
  case h_10 => cases h; unfold State.seqFailed; split <;> exact TraceGrows.refl s
  case h_11 =>
    cases h; unfold State.seqPUnit; split
    · rw [TraceGrows, State.raiseCancelled_trace]
    · rw [TraceGrows, (State.unitFrame_spec _ _ _).1]; exact List.prefix_append _ _
  case h_12 =>
    unfold State.seqPWel at h; split at h
    · cases h
    · cases h; exact s.unitFrame_traceGrows _ _
  case h_13 => cases h; exact s.unitFrame_traceGrows _ _
  case h_14 => cases h; exact awaited _ _
  case h_15 => cases h; exact s.seqBusy_traceGrows _ rfl rfl
  case h_16 => cases h; rw [TraceGrows, State.loopTest_trace]
  case h_17 => cases h; unfold State.seqFailed; split <;> exact TraceGrows.refl s
  case h_18 =>
    cases h; unfold State.seqRUnit; split
    · rw [TraceGrows, State.raiseCancelled_trace]
    · exact s.loadSlice.unitFrame_traceGrows _ _
  case h_19 => cases h; exact awaited _ _
  case h_20 => cases h; exact s.seqBusy_traceGrows _ rfl rfl
  case h_21 =>
    simp only [State.seqRReady] at h
    split at h
    · cases h; rw [TraceGrows, State.abortUnit_trace]; exact sent _ _
    · split at h
      · cases h
      · rename_i u hu
        cases h
        rw [TraceGrows, State.loopTest_trace]
        have ht := State.memWrite_trace _ hu
        exact ht ▸ sent _ _
  case h_22 => cases h; simp only [State.seqWrdi]; split <;> exact sent _ _
  case h_23 => cases h; exact TraceGrows.refl s

/-- Unless the host resets, a transition lets the trace grow. -/
theorem State.transition_traceGrows {t : State} (hr : s.resetNow = false) (h : s.transition = .next t) :
    TraceGrows s t := by
  rw [State.transition_of_no_reset s hr] at h
  exact s.takeMove.seq_traceGrows h

end

/-! ### A request in flight -/

/-- The one induction over a request in flight: a transitive relation that every transition in flight keeps holds
between the state it starts in and the state it ends in. -/
theorem runInFlight_induction {R : State → State → Prop} (refl : ∀ s, R s s)
    (step : ∀ s t u, s.eng.pc.inFlight = true → s.transition = .next t → R t u → R s u)
    {fuel : Nat} {s t : State} (h : runInFlight fuel s = .next t) : R s t := by
  induction fuel generalizing s with
  | zero => cases h; exact refl _
  | succ n ih =>
    simp only [runInFlight] at h
    split at h
    · rename_i hp
      split at h
      · rename_i u hu
        exact step s u t hp hu (ih h)
      · cases h
      · cases h
    · cases h; exact refl _

/-- A request that has ended stays as it is. -/
theorem runInFlight_of_not_inFlight (fuel : Nat) {s : State} (h : s.eng.pc.inFlight = false) :
    runInFlight fuel s = .next s := by
  cases fuel <;> simp [runInFlight, h]

/-- One transition of a request in flight. -/
theorem runInFlight_succ (n : Nat) {s t : State} (hp : s.eng.pc.inFlight = true) (ht : s.transition = .next t) :
    runInFlight (n + 1) s = runInFlight n t := by
  simp [runInFlight, hp, ht]

end Sys2Proof.Machine
end

