-- ==== Sys2Proof/Tests/Slice0.lean ====
section
/-! SUPPORT. Small tests: ill-formed terms refused, words written out from spec/30_encoding.md and
spec/95_test_vectors.md, one-step results from that file's vectors and the rules, and for every statement with
hypotheses a state and operands that meet them. -/

namespace Sys2Proof.Tests

open Sys2Proof.Machine

/-! ### States the tests start from -/

/-- The reference configuration with POLL_LIMIT = 4, as spec/95_test_vectors.md has it. -/
def reference : Config := ⟨512, 4, 64, 134217728, 4, 10, 32, true, 0, 0⟩

/-- A small instance of R10: pages of 4 bytes, blocks of 2 pages, 4 pages, POLL_LIMIT 2. -/
def tiny : Config := ⟨2, 2, 2, 16, 2, 10, 8, true, 1, 2⟩

/-- Draws of a device and a transport that answer every frame, and complete every command with success. -/
def plainDraws : Draws where
  transport := List.replicate 12 .answered
  completes := List.replicate 4 true
  succeeds := List.replicate 4 true
  bytes := List.replicate 4 0x00
  count := 0

/-- An idle device: page 0 holds 10 11 12 13, page 1 is erased, page 2 holds 20 21 22 23, the cache A0 A1 A2 A3. -/
def device : Device where
  array := [(0, 0x10), (1, 0x11), (2, 0x12), (3, 0x13), (8, 0x20), (9, 0x21), (10, 0x22), (11, 0x23)]
  cache := [(0, 0xA0), (1, 0xA1), (2, 0xA2), (3, 0xA3)]
  wel := false
  pending := none
  efail := false
  pfail := false
  bp := 0x00
  dfault := false

/-- The small instance in IDLE, with two buffers. -/
def ready : State where
  cfg := tiny
  eng := { Engine.reset with pc := .idle }
  dev := device
  draws := plainDraws
  host := ⟨[], [], [[0xD0, 0xD1, 0xD2, 0xD3], [0, 0]], none⟩
  framePort := none
  reply := .data []
  trace := []

/-- The state of a next outcome. -/
def next (o : Host.Outcome State Fault Refusal) : State :=
  match o with
  | .next t => t
  | .fault _ => State.reset
  | .refused _ => State.reset

/-- The engine of `ready` with other registers. -/
def withEngine (f : Engine → Engine) : State := { ready with eng := f ready.eng }

/-- The device of `ready` in another state. -/
def withDevice (f : Device → Device) : State := { ready with dev := f ready.dev }

/-- `ready` with other draws. -/
def withDraws (f : Draws → Draws) : State := { ready with draws := f ready.draws }

/-- `ready` with another `pc` and page. -/
def atPc (pc : Pc) : State := withEngine fun e => { e with pc := pc, page := 3 }

/-- The engine of `ready` with a standing request: op, offset, length, units. -/
def running (pc : Pc) (op : Byte) (offset length nunits : Nat) : State :=
  withEngine fun e => { e with
    pc := pc, op := op, offset := offset, length := length, nunits := nunits, buf := some 0 }

/-! ### WellFormed refuses an ill-formed term for each check -/

theorem test_wf_page : wellFormed tiny (.prdc 3) ∧ ¬ wellFormed tiny (.prdc 4) := by decide
theorem test_wf_page_program : wellFormed tiny (.pex 3) ∧ ¬ wellFormed tiny (.pex 4) := by decide
theorem test_wf_page_erase : wellFormed tiny (.bers 3) ∧ ¬ wellFormed tiny (.bers 4) := by decide
theorem test_wf_rdc_range : wellFormed tiny (.rdc 3 1) ∧ ¬ wellFormed tiny (.rdc 3 2) := by decide
theorem test_wf_rdc_length : ¬ wellFormed tiny (.rdc 0 0) := by decide
theorem test_wf_pld_range : wellFormed tiny (.pld 2 [1, 2]) ∧ ¬ wellFormed tiny (.pld 3 [1, 2]) := by decide
theorem test_wf_rdid_shape :
    wellFormed tiny (.rdid 1 2) ∧ ¬ wellFormed tiny (.rdid 0 2) ∧ ¬ wellFormed tiny (.rdid 1 3) := by decide
theorem test_wf_offset : wellFormed tiny (.erase 255 0 none) ∧ ¬ wellFormed tiny (.erase 256 0 none) := by decide
theorem test_wf_length : wellFormed tiny (.geometry 0 255 none) ∧ ¬ wellFormed tiny (.geometry 0 256 none) := by
  decide
theorem test_wf_read : ¬ wellFormed tiny (.read 256 0 (some 0)) ∧ ¬ wellFormed tiny (.read 0 256 (some 0)) := by
  decide
theorem test_wf_write : ¬ wellFormed tiny (.write 256 0 (some 0)) ∧ ¬ wellFormed tiny (.write 0 256 (some 0)) := by
  decide
theorem test_wf_config : tiny.valid = true ∧ reference.valid = true := by decide
theorem test_wf_config_refused :
    ({ tiny with columnSize := 3 }).valid = false ∧ ({ tiny with columnsPerPage := 3 }).valid = false ∧
    ({ tiny with pagesPerBlock := 3 }).valid = false ∧ ({ tiny with totalSize := 20 }).valid = false ∧
    ({ tiny with totalSize := 0 }).valid = false ∧ ({ tiny with addrWidth := 3 }).valid = false ∧
    ({ tiny with pollLimit := 0 }).valid = false ∧ ({ tiny with columnSize := 65536 }).valid = false ∧
    ({ tiny with totalSize := 4 * 65536 + 8, addrWidth := 32 }).valid = false := by decide

/-! ### Words written out from the encodings (table 2.1 of spec/95_test_vectors.md) -/

theorem test_decode_rdsr : decodeFrame ⟨[0b00000101, 0b11000000], 1⟩ = .ok (.rdsr 0xC0) := by decide
theorem test_decode_wrsr :
    decodeFrame ⟨[0b00000001, 0b10100000, 0b00000000], 0⟩ = .ok (.wrsr 0xA0 0x00) := by decide
theorem test_decode_wren : decodeFrame ⟨[0b00000110], 0⟩ = .ok .wren := by decide
theorem test_decode_wrdi : decodeFrame ⟨[0b00000100], 0⟩ = .ok .wrdi := by decide
theorem test_decode_prdc :
    decodeFrame ⟨[0b00010011, 0b00000000, 0b00010010, 0b00110100], 0⟩ = .ok (.prdc 4660) := by decide
theorem test_decode_rdc :
    decodeFrame ⟨[0b00000011, 0b00000011, 0b10111000, 0b00000000], 1096⟩ = .ok (.rdc 952 1096) := by decide
theorem test_decode_pld :
    decodeFrame ⟨[0b00000010, 0b00000111, 0b11010000, 0b01011010], 0⟩ = .ok (.pld 2000 [0x5A]) := by decide
theorem test_decode_pex :
    decodeFrame ⟨[0b00010000, 0b00000000, 0b11111111, 0b11111111], 0⟩ = .ok (.pex 65535) := by decide
theorem test_decode_bers :
    decodeFrame ⟨[0b11011000, 0b00000000, 0b11111111, 0b11000000], 0⟩ = .ok (.bers 65472) := by decide
theorem test_decode_rdid : decodeFrame ⟨[0b10011111, 0b00000000], 2⟩ = .ok (.rdid 1 2) := by decide
theorem test_decode_requests :
    decodeRequest ⟨0b00000000, 0, 0, none⟩ = .ok (.geometry 0 0 none) ∧
    decodeRequest ⟨0b00000001, 0, 131072, none⟩ = .ok (.erase 0 131072 none) ∧
    decodeRequest ⟨0b00000010, 2000, 100, some 1⟩ = .ok (.read 2000 100 (some 1)) ∧
    decodeRequest ⟨0b00000011, 0, 4096, some 0⟩ = .ok (.write 0 4096 (some 0)) := by decide

/-- Unassigned first bytes 0x00, 0x07, 0x9E and 0xFF, a nonzero fixed byte and a wrong shape are no command. -/
theorem test_decode_refused :
    decodeFrame ⟨[0x00], 0⟩ = .error (.unassignedOpcode 0x00) ∧
    decodeFrame ⟨[0x07], 0⟩ = .error (.unassignedOpcode 0x07) ∧
    decodeFrame ⟨[0x9E], 0⟩ = .error (.unassignedOpcode 0x9E) ∧
    decodeFrame ⟨[0xFF], 0⟩ = .error (.unassignedOpcode 0xFF) ∧
    decodeFrame ⟨[0x13, 0x01, 0x00, 0x00], 0⟩ = .error (.fixedByteNonzero 0x13) ∧
    decodeFrame ⟨[0x06, 0x00], 0⟩ = .error (.wrongShape 0x06) ∧
    decodeFrame ⟨[], 0⟩ = .error .emptyFrame ∧
    decodeRequest ⟨0x04, 0, 0, none⟩ = .error (.unassignedOp 0x04) := by decide

/-- The opcode-table words: a frame opcode with zeros above it, and the record `01 00000000 00020000`. -/
theorem test_table_words :
    decodeTableWord 8 0x06 = some .wren ∧ decodeTableWord 8 0x05 = some (.rdsr 0x00) ∧
    decodeTableWord 8 0xD8 = some (.bers 0) ∧ decodeTableWord 8 0x00 = some (.geometry 0 0 none) ∧
    decodeTableWord 72 0x000002000000000001 = some (.erase 0 131072 none) := by decide

/-- The first step after reset runs the word that was placed: WREN sets WEL. -/
theorem test_place_frame_after_reset : (next (step (State.reset.withFetchWord 8 0x06))).dev.wel = true := by
  decide

/-- The same for a request: GEOMETRY answers OK. -/
theorem test_place_request_after_reset :
    ((next (step (State.reset.withFetchWord 8 0x00))).host.response.map Response.code) = some .ok := by decide

/-! ### The plans (tables T, TE and TP of spec/95_test_vectors.md) -/

theorem test_plan_w1 : planAccess reference 3000 1500 = [⟨1, 952, 1096, 0⟩, ⟨2, 0, 404, 1096⟩] := by decide
theorem test_plan_t4 : planAccess reference 2047 2 = [⟨0, 2047, 1, 0⟩, ⟨1, 0, 1, 1⟩] := by decide
theorem test_plan_t11 : planAccess reference 134217727 1 = [⟨65535, 2047, 1, 0⟩] := by decide
theorem test_range_t14_t16_t18 :
    readChecks reference 134217727 2 = false ∧ readChecks reference 134217728 0 = false ∧
    readChecks reference 4294967295 1 = false ∧ readChecks reference 5 0 = true := by decide
theorem test_erase_te5_te8 :
    eraseChecks reference 1 131072 = false ∧ eraseChecks reference 0 2048 = false ∧
    eraseChecks reference 65536 131072 = false ∧ eraseChecks reference 134086656 262144 = false ∧
    eraseChecks reference 134086656 131072 = true ∧ spannedPages reference 131072 262144 = 128 := by decide
theorem test_program_tp :
    writeChecks reference 0 2047 = false ∧ writeChecks reference 1024 2048 = false ∧
    writeChecks reference 134215680 4096 = false ∧ writeChecks reference 134215680 2048 = true ∧
    programUnits reference 6144 = 3 := by decide

/-! ### The settle decision (table 2.3) -/

/-- The decision on a status byte, a mask and a read count with POLL_LIMIT 4. -/
def decision (mask status : Byte) (polls : Nat) : Settle :=
  settle { Engine.reset with mask := mask, status := status, polls := polls } 4

theorem test_settle :
    decision 0x04 0x00 1 = .ok ∧ decision 0x04 0x04 1 = .failed ∧ decision 0x04 0x08 1 = .ok ∧
    decision 0x08 0x08 1 = .failed ∧ decision 0x08 0x04 1 = .ok ∧ decision 0x00 0x0C 1 = .ok ∧
    decision 0x04 0x05 1 = .again ∧ decision 0x04 0x01 4 = .timeout ∧ decision 0x04 0x04 4 = .failed ∧
    decision 0x04 0xF2 1 = .ok ∧ decision 0x08 0xF6 1 = .ok := by decide

/-! ### SPI commands (table 2.2) -/

/-- A device that is erasing the block of page 3. -/
def erasing : State := withDevice fun d => { d with pending := some (.erase 3), wel := true }

theorem test_m1_wren : (next (exec .wren ready)).dev.wel = true := by decide
theorem test_m14_wrdi : (next (exec .wrdi (withDevice fun d => { d with wel := true }))).dev.wel = false := by decide
theorem test_m2_bers_without_wel : (next (exec (.bers 0) ready)).dev.dfault = true := by decide
theorem test_m3_busy_frame : (next (exec .wren erasing)).dev.dfault = true := by decide
theorem test_m4_erase_completes :
    let t := next (exec (.rdsr 0xC0) erasing)
    t.dev.array.read 8 = 0xFF ∧ t.dev.array.read 0 = 0x10 ∧ t.dev.wel = false ∧ t.dev.busy = false ∧
      t.reply = .data [0x00] := by decide
theorem test_m5_not_complete :
    let t := next (exec (.rdsr 0xC0) { erasing with draws := { plainDraws with completes := [false] } })
    t.dev = erasing.dev ∧ t.reply = .data [0x01] := by decide
theorem test_m6_program_fails :
    let t := next (exec (.rdsr 0xC0) { withDevice (fun d => { d with pending := some (.program 1) }) with
      draws := { plainDraws with succeeds := [false] } })
    t.dev.pfail = true ∧ t.dev.wel = false ∧ t.dev.busy = false ∧ t.reply = .data [0x08] := by decide
theorem test_m8_program :
    let t := next (exec (.rdsr 0xC0) (withDevice fun d => { d with pending := some (.program 1), wel := true }))
    t.dev.array.read 4 = 0xA0 ∧ t.dev.array.read 7 = 0xA3 ∧ t.dev.array.read 8 = 0x20 := by decide
theorem test_m10_rdc_past_page : (next (exec (.rdc 3 2) ready)).dev.dfault = true := by decide
theorem test_rdc_answers : (next (exec (.rdc 2 2) ready)).reply = .data [0xA2, 0xA3] := by decide
theorem test_m11_wrsr_other : (next (exec (.wrsr 0xC0 0x00) ready)).dev.dfault = true := by decide
theorem test_m12_wrsr_protect :
    (next (exec (.wrsr 0xA0 0x00) (withDevice fun d => { d with bp := 0x3C }))).dev.bp = 0x00 := by decide
theorem test_m13_load :
    let t := next (exec (.rdsr 0xC0) (next (exec (.prdc 2) ready)))
    t.dev.cache.read 0 = 0x20 ∧ t.dev.cache.read 3 = 0x23 ∧ t.dev.busy = false := by decide
theorem test_pld :
    let t := next (exec (.pld 1 [0x55, 0x56]) ready)
    t.dev.cache.read 1 = 0x55 ∧ t.dev.cache.read 2 = 0x56 := by
  have ha : ready.draws.transportNow = .answered := by decide
  have hb : ready.dev.busy = false := by decide
  have hr : ¬ ready.cfg.pageSize < 3 := by decide
  simp [exec, execPld, next, State.transact_answered ha, devPld, State.devCheck, hb, hr, Memory.read_fill]
theorem test_pex_pending :
    (next (exec (.pex 1) (withDevice fun d => { d with wel := true }))).dev.pending = some (.program 1) := by decide
theorem test_bers_pending :
    (next (exec (.bers 3) (withDevice fun d => { d with wel := true }))).dev.pending = some (.erase 3) := by decide
theorem test_rdid_shape :
    (next (exec (.rdid 1 2) ready)).dev.dfault = false ∧ (next (exec (.rdid 0 2) ready)).dev.dfault = true := by
  decide

/-! ### Host operations and bring-up (tables 2.5 to 2.9, on the small instance) -/

theorem test_h1_geometry :
    (next (exec (.geometry 5 7 none) ready)).host.response = some ⟨.ok, 0, some ⟨2, 2, 2, 16⟩⟩ := by decide
theorem test_erase :
    let t := next (exec (.erase 8 8 none) ready)
    t.host.response = some ⟨.ok, 0, none⟩ ∧ t.dev.array.read 8 = 0xFF ∧ t.dev.array.read 0 = 0x10 ∧
      (framesOf t.trace).take 3 = [⟨[0x06], 0⟩, ⟨[0xD8, 0x00, 0x00, 0x02], 0⟩, ⟨[0x05, 0xC0], 1⟩] := by decide
theorem test_w2_erase_unaligned :
    let t := next (exec (.erase 1 8 none) ready)
    t.host.response = some ⟨.invalidArgument, 0, none⟩ ∧ t.trace = [] := by decide
theorem test_read :
    let t := next (exec (.read 2 2 (some 1)) ready)
    t.host.response = some ⟨.ok, 2, none⟩ ∧ t.host.bufs[1]? = some [0x12, 0x13] ∧
      framesOf t.trace = [⟨[0x13, 0, 0, 0], 0⟩, ⟨[0x05, 0xC0], 1⟩, ⟨[0x03, 0, 2, 0], 2⟩] := by decide
theorem test_write :
    let t := next (exec (.write 4 4 (some 0)) ready)
    t.host.response = some ⟨.ok, 4, none⟩ ∧ t.dev.dfault = false ∧
      framesOf t.trace = [⟨[0x06], 0⟩, ⟨[0x02, 0, 0, 0xD0, 0xD1, 0xD2, 0xD3], 0⟩, ⟨[0x10, 0, 0, 1], 0⟩,
        ⟨[0x05, 0xC0], 1⟩] := by decide
theorem test_b1_bringup :
    let t := next (step (atPc .bringup))
    t.eng.pc = .idle ∧ t.trace = [.frame [0x01, 0xA0, 0x00] 0] := by decide
theorem test_b2_bringup_fails :
    (next (step { atPc .bringup with draws := { plainDraws with transport := [.errorIgnored] } })).eng.pc = .dead := by
  decide

/-! ### The hypotheses of each statement are met: `test_meets_<statement>` -/

theorem test_meets_DecodeOfEncodeIsIdentity :
    wellFormed tiny (.rdid 1 2) ∧ wellFormed tiny (.prdc 3) ∧ wellFormed tiny (.rdc 0 4) ∧
    wellFormed tiny (.pld 4 []) ∧ wellFormed tiny (.erase 255 255 none) := by decide

theorem test_meets_EncodeOfDecodeIsIdentity :
    decode (.frame ⟨[0x13, 0x00, 0x12, 0x34], 0⟩) = .ok (.prdc 4660) ∧
    decode (.request ⟨0x02, 5, 6, none⟩) = .ok (.read 5 6 none) := by decide

/-- `ready` with WREN on the frame port. -/
def withFrame : State := { ready with framePort := some ⟨[0x06], 0⟩ }

theorem test_meets_StepRunsTheFrameOnThePort :
    withFrame.cfg.valid = true ∧ withFrame.framePort = some ⟨[0x06], 0⟩ ∧
    decodeFrame ⟨[0x06], 0⟩ = .ok .wren := by decide

/-- `ready` with one record on the request port. -/
def withRecord (r : Request) : State := { ready with host := { ready.host with requests := [r] } }

theorem test_meets_StepRunsTheRequestOnThePort :
    let s := withRecord ⟨0x01, 255, 255, none⟩
    s.cfg.valid = true ∧ s.framePort = none ∧ s.eng.pc.ready = true ∧ s.resetNow = false ∧
    s.host.requests = [⟨0x01, 255, 255, none⟩] ∧ 255 < 2 ^ s.cfg.addrWidth ∧
    decodeRequest ⟨0x01, 255, 255, none⟩ = .ok (.erase 255 255 none) := by decide

theorem test_meets_StepOtherwiseMovesTheEngine :
    ready.cfg.valid = true ∧ ready.framePort = none ∧ (atPc .bringup).eng.pc.ready = false ∧
    ready.eng.pc.ready = true ∧ ready.resetNow = false ∧ ready.host.requests = [] ∧
    ({ ready with host := { ready.host with moves := [.reset] } } : State).resetNow = true := by decide

theorem test_meets_StepRefusalsAreNamed :
    let s := withRecord ⟨0x01, 256, 0, none⟩
    let u := withRecord ⟨0x01, 0, 256, none⟩
    ({ ready with cfg := { tiny with pollLimit := 0 } } : State).cfg.valid = false ∧
    s.cfg.valid = true ∧ s.framePort = none ∧ s.eng.pc.ready = true ∧ s.resetNow = false ∧
    2 ^ s.cfg.addrWidth ≤ 256 ∧ s.host.requests = [⟨0x01, 256, 0, none⟩] ∧
    u.host.requests = [⟨0x01, 0, 256, none⟩] := by decide

/-- `ready` with a frame the engine did not send. -/
def withForeign (f : Frame) : State := { ready with framePort := some f }

theorem test_meets_MalformedFramesAreDeviceFaults :
    (withForeign ⟨[0x07], 0⟩).cfg.valid = true ∧ (withForeign ⟨[0x07], 0⟩).framePort = some ⟨[0x07], 0⟩ ∧
    (withForeign ⟨[0x07], 0⟩).draws.transportNow ≠ .errorIgnored ∧
    decodeFrame ⟨[0x07], 0⟩ = .error (.unassignedOpcode 0x07) ∧
    decodeFrame ⟨[0x13, 0x01, 0x00, 0x00], 0⟩ = .error (.fixedByteNonzero 0x13) ∧
    decodeFrame ⟨[0x05, 0xC0], 2⟩ = .error (.wrongShape 0x05) ∧ decodeFrame ⟨[], 0⟩ = .error .emptyFrame := by
  decide

/-- A frame of each malformed kind, and an RDID frame of another shape than the configured one. -/
theorem test_malformed :
    Frame.Malformed tiny ⟨[], 0⟩ ∧ Frame.Malformed tiny ⟨[0x07], 0⟩ ∧ Frame.Malformed tiny ⟨[0x06], 1⟩ ∧
    Frame.Malformed tiny ⟨[0x9F, 0x00, 0x00], 2⟩ ∧ Frame.Malformed tiny ⟨[0x13, 0x01, 0x00, 0x00], 0⟩ := by
  refine ⟨?_, ?_, ?_, ?_, ?_⟩ <;> simp [Frame.Malformed, Frame.HasItsShape, tiny]

theorem test_meets_SpiCommandsLeaveTheEngine : (Instr.bers 3).isCommand = true := by decide

theorem test_meets_OnlyRdsrOfTheSpiCommandsChangesTheArray :
    (Instr.rdsr 0xA0).isCommand = true ∧ Instr.rdsr 0xA0 ≠ .rdsr statusReg := by decide

theorem test_meets_TransportErrorsHideOnlyTheReply :
    (withDraws fun d => { d with transport := [.errorIgnored] }).draws.transportNow = .errorIgnored ∧
    (withDraws fun d => { d with transport := [.errorActed] }).draws.transportNow = .errorActed := by decide

theorem test_meets_RdidAnswersItsBytes :
    ready.draws.transportNow = .answered ∧ ready.dev.busy = false := by decide

theorem test_meets_WrenAndWrdiWriteTheLatch :
    ready.draws.transportNow = .answered ∧ erasing.draws.transportNow = .answered ∧ erasing.dev.busy = true := by
  decide

theorem test_meets_WrsrWritesTheProtectionRegister :
    ready.draws.transportNow = .answered ∧ ready.dev.busy = false ∧ (0xA1 : Byte) ≠ 0xA0 := by decide

/-- A busy device whose command does not complete at the next status read. -/
def stillErasing : State := { erasing with draws := { plainDraws with completes := [false] } }

theorem test_meets_StatusReadShowsTheLatches :
    ready.draws.transportNow = .answered ∧ ready.dev.dfault = false ∧ ready.dev.busy = false ∧
    stillErasing.draws.transportNow = .answered ∧ stillErasing.dev.dfault = false ∧
    (stillErasing.dev.busy = true → stillErasing.draws.completes.head? = some false) := by decide

theorem test_meets_OtherRegisterReads :
    ready.draws.transportNow = .answered ∧ (0xA0 : Byte) ≠ 0xC0 ∧ (0xC1 : Byte) ≠ 0xC0 ∧
    ready.dev.dfault = false := by decide

theorem test_meets_LoadFillsTheCache :
    let s := withDevice fun d => { d with pending := some (.load 2) }
    s.draws.transportNow = .answered ∧ s.dev.pending = some (.load 2) ∧
    s.draws.completes.head? = some true ∧ 3 < s.cfg.pageSize ∧ s.dev.dfault = false := by decide

theorem test_meets_EraseCompletionErasesTheBlock :
    erasing.draws.transportNow = .answered ∧ erasing.dev.pending = some (.erase 3) ∧
    erasing.draws.completes.head? = some true ∧ erasing.draws.succeeds.head? = some true ∧
    erasing.dev.bp = 0x00 ∧
    (3 / erasing.cfg.pagesPerBlock * erasing.cfg.blockSize = 8 ∧ erasing.cfg.blockSize = 8) := by decide

theorem test_meets_ProgramCompletionStoresTheCache :
    let s := withDevice fun d => { d with pending := some (.program 1) }
    s.draws.transportNow = .answered ∧ s.dev.pending = some (.program 1) ∧
    s.draws.completes.head? = some true ∧ s.draws.succeeds.head? = some true ∧ s.dev.bp = 0x00 ∧
    (∀ c < s.cfg.pageSize, s.dev.array.read (1 * s.cfg.pageSize + c) = 0xFF) := by decide

theorem test_meets_PageCommandsStartTheDevice :
    let s := withDevice fun d => { d with wel := true }
    s.draws.transportNow = .answered ∧ s.dev.busy = false ∧ (3 : Half).toNat < s.cfg.numPages ∧
    s.dev.wel = true := by decide

theorem test_meets_RdcAnswersTheCache :
    ready.draws.transportNow = .answered ∧ ready.dev.busy = false ∧ ready.dev.dfault = false ∧
    (3 : Half).toNat + 1 ≤ ready.cfg.pageSize ∧ (0 : Half).toNat + 4 ≤ ready.cfg.pageSize := by decide

theorem test_meets_PldLoadsTheCache :
    ready.draws.transportNow = .answered ∧ ready.dev.busy = false ∧
    (0 : Half).toNat + [0x01, 0x02, 0x03, 0x04].length ≤ ready.cfg.pageSize ∧
    (4 : Half).toNat + ([] : List Byte).length ≤ ready.cfg.pageSize := by decide

theorem test_meets_DeviceFaultConditions :
    ready.draws.transportNow ≠ .errorIgnored ∧ erasing.draws.transportNow ≠ .errorIgnored ∧
    erasing.dev.busy = true ∧ (∀ reg, Instr.wren ≠ .rdsr reg) ∧ ready.dev.wel = false ∧
    ready.cfg.numPages ≤ (4 : Half).toNat ∧ ready.cfg.pageSize < (4 : Half).toNat + 1 ∧
    ready.cfg.pageSize < (3 : Half).toNat + ([0x01, 0x02] : List Byte).length := by
  refine ⟨by decide, by decide, by decide, ?_, by decide, by decide, by decide, by decide⟩
  intro reg h
  cases h

/-- `ready` after a device fault. -/
def faulted : State := withDevice fun d => { d with dfault := true }

theorem test_meets_DeviceFaultIsSticky : (∃ t, step faulted = .next t) ∧ faulted.Faulted := ⟨⟨_, rfl⟩, rfl⟩

theorem test_meets_FaultedRunsSatisfyNoClaim :
    faulted.Faulted ∧ (∃ t, core.run 1 faulted = .next t) ∧ ∃ t, exec (.geometry 0 0 none) faulted = .next t :=
  ⟨rfl, ⟨_, rfl⟩, _, rfl⟩

theorem test_meets_NoStepWritesTheConfiguration : ∃ t, step withFrame = .next t := ⟨_, rfl⟩

theorem test_meets_StepKeepsCanonicalMemory : ready.CanonicalMemory ∧ ∃ t, step withFrame = .next t :=
  ⟨⟨by decide, by decide⟩, _, rfl⟩

/-- Between requests, with a device that is idle. -/
theorem test_ready_protocol : ready.Protocol where
  config := by decide
  onlyEngine := rfl
  noReset := by unfold State.NoReset; decide
  noFault := rfl
  idleWhenKnown := fun _ => rfl
  frameReady := trivial
  planStands := ⟨nofun, nofun, by decide⟩

/-- Inside an erase unit, about to send the block-erase. -/
def erasingUnit : State :=
  let s := running .eWel 0x01 8 8 2
  { s with dev := { device with wel := true }, eng := { s.eng with page := 3, unit := 1 } }

theorem test_erase_unit_protocol : erasingUnit.Protocol where
  config := by decide
  onlyEngine := rfl
  noReset := by unfold State.NoReset; decide
  noFault := rfl
  idleWhenKnown := show erasingUnit.dev.busy = false from rfl
  frameReady := show erasingUnit.dev.wel = true ∧ _ from ⟨rfl, by decide⟩
  planStands := ⟨nofun, fun op h => by cases h; exact ⟨rfl, ⟨by decide, by decide, by decide⟩, rfl⟩, by decide⟩

theorem test_meets_StepKeepsTheProtocol :
    (ready.Protocol ∧ ∃ t, step ready = .next t) ∧ (erasingUnit.Protocol ∧ ∃ t, step erasingUnit = .next t) :=
  ⟨⟨test_ready_protocol, _, rfl⟩, test_erase_unit_protocol, _, rfl⟩

/-- A launch of the small instance. -/
def launch : State := { ready with eng := State.reset.eng }

theorem test_meets_LaunchMeetsTheInvariants :
    launch.LaunchPremises ∧ launch.NoReset ∧ launch.eng = State.reset.eng :=
  ⟨⟨by decide, by decide, by decide, rfl⟩, by unfold State.NoReset; decide, rfl⟩

theorem test_meets_ResetRestartsTheEngine :
    ({ ready with host := { ready.host with moves := [.reset] } } : State).resetNow = true := by decide

theorem test_meets_BringUpClearsProtection :
    (atPc .bringup).eng.pc = .bringup ∧ (atPc .bringup).resetNow = false := by decide

/-- The unit's status read has timed out. -/
def timedOut : State :=
  let s := running .rBusy 0x02 2 2 1
  { s with eng := { s.eng with buf := some 1, status := 0x01, polls := 2 } }

theorem test_meets_MaybeBusyIsSetOnlyByUnsettledEnds :
    (∃ t, timedOut.transition = .next t) ∧ timedOut.eng.result = .ok ∧ timedOut.eng.maybeBusy = false ∧
    (∃ t, (atPc .wrdi).transition = .next t) ∧
    (ready.cfg.valid = true ∧ ready.eng.pc.ready = true ∧ ready.NoReset ∧ ready.eng.maybeBusy = false ∧
      ∃ t, exec (.erase 0 8 none) ready = .next t) ∧
    ∃ t, exec .wren ready = .next t :=
  ⟨⟨_, rfl⟩, rfl, rfl, ⟨_, rfl⟩, ⟨by decide, by decide, by unfold State.NoReset; decide, rfl, _, rfl⟩, _, rfl⟩

/-- A unit boundary with CANCEL set. -/
def cancelled : State :=
  let s := running .eUnit 0x01 0 8 2
  { s with eng := { s.eng with cancel := true } }

theorem test_meets_CancelTakesEffectExactlyAtUnitBoundaries :
    (cancelled.eng.pc = .eUnit ∧ cancelled.resetNow = false ∧ cancelled.eng.cancel = true) ∧
    ∃ t, cancelled.transition = .next t ∧ cancelled.eng.result ≠ .cancelled ∧ t.eng.result = .cancelled :=
  ⟨by decide, _, rfl, by decide, rfl⟩

/-- A cancel in a polling state, as in V-E6 of spec/95_test_vectors.md, and a request with no move but quiet ones. -/
theorem test_meets_CancelTakesEffectExactlyAtUnitBoundaries_kept :
    (∃ t, ({ running .eBusy 0x01 0 8 2 with host := { ready.host with moves := [.cancel] } } : State).transition =
      .next t) ∧
    ready.eng.pc.ready = true ∧ (∀ m ∈ ready.host.moves, m = .quiet) ∧
    ∃ t, exec (.erase 0 8 none) ready = .next t :=
  ⟨⟨_, rfl⟩, by decide, by decide, _, rfl⟩

/-- The cancel of this very transition counts too. -/
theorem test_cancel_arrives :
    let s := { running .rUnit 0x02 0 2 1 with host := { ready.host with moves := [.cancel] } }
    s.resetNow = false ∧ s.eng.cancel = false ∧ s.host.moves.head? = some .cancel ∧
    (next s.transition).eng.result = .cancelled := by decide

theorem test_meets_ErrorsEnterAndLeaveThroughRespond : (atPc .respond).eng.pc = .respond := by decide

theorem test_meets_AwaitBeginsWithAStatusRead :
    (atPc .eCmd).eng.pc = .eCmd ∧ (atPc .pCmd).eng.pc = .pCmd ∧ (atPc .rPageLoaded).eng.pc = .rPageLoaded := by
  decide

theorem test_meets_AwaitSettlesOnTheStatusByte :
    let failed := withEngine fun e => { e with pc := .eBusy, mask := 0x04, status := 0x04 }
    let settled := withEngine fun e => { e with pc := .pBusy, mask := 0x08, status := 0x04 }
    let read := withEngine fun e => { e with pc := .rBusy, status := 0x0C }
    failed.eng.status.getLsbD 0 = false ∧ failed.eng.status &&& failed.eng.mask ≠ 0 ∧
    settled.eng.status.getLsbD 0 = false ∧ settled.eng.status &&& settled.eng.mask = 0 ∧
    read.eng.pc = .rBusy ∧ read.eng.status.getLsbD 0 = false ∧
    timedOut.eng.pc = .rBusy ∧ timedOut.eng.status.getLsbD 0 = true ∧ timedOut.eng.polls = timedOut.cfg.pollLimit ∧
    { timedOut.eng with polls := 1 }.polls ≠ timedOut.cfg.pollLimit := by decide

theorem test_meets_EraseUnitSendsWrenThenBers :
    (atPc .eUnit).eng.pc = .eUnit ∧ (atPc .eUnit).eng.cancel = false ∧ (atPc .eWel).eng.pc = .eWel := by decide

theorem test_meets_ProgramUnitSendsWrenPldPex :
    let s := running .pWel 0x03 4 4 1
    (atPc .pUnit).eng.pc = .pUnit ∧ (atPc .pUnit).eng.cancel = false ∧ s.eng.pc = .pWel ∧
    s.eng.buf = some 0 ∧ s.host.bufs[0]? = some [0xD0, 0xD1, 0xD2, 0xD3] ∧
    s.eng.dst + s.cfg.pageSize ≤ [0xD0, 0xD1, 0xD2, 0xD3].length ∧ (atPc .pLoaded).eng.pc = .pLoaded := by decide

theorem test_meets_ReadSliceSendsPrdcThenRdc :
    let s := withEngine fun e => { e with pc := .rReady, op := 0x02, buf := some 0, dst := 2, col := 3, slen := 2 }
    (atPc .rUnit).eng.pc = .rUnit ∧ (atPc .rUnit).eng.cancel = false ∧ s.eng.pc = .rReady ∧ s.eng.op = 0x02 ∧
    s.eng.buf = some 0 ∧ s.host.bufs[0]? = some [0xD0, 0xD1, 0xD2, 0xD3] ∧
    s.eng.dst + s.eng.slen ≤ [0xD0, 0xD1, 0xD2, 0xD3].length := by decide

/-- Slice 1 of READ 3, 2: page 1 column 0, one byte to buffer index 1 (rule R203). -/
theorem test_read_slice :
    let s := running .rUnit 0x02 3 2 2
    let t := next ({ s with eng := { s.eng with unit := 1 } } : State).seq
    t.trace = [.frame [0x13, 0x00, 0x00, 0x01] 0] ∧ t.eng.page = 1 ∧ t.eng.col = 0 ∧ t.eng.slen = 1 ∧ t.eng.dst = 1 ∧
      t.eng.pc = .rPageLoaded := by decide

theorem test_meets_WriteDisableFollowsAFailedUnit :
    (atPc .eFailed).eng.pc = .eFailed ∧ (atPc .eFailed).cfg.wrdiOnFail = true ∧
    ({ tiny with wrdiOnFail := false }).wrdiOnFail = false ∧ (atPc .wrdi).eng.pc = .wrdi ∧
    (atPc .eUnit).eng.pc ≠ .wrdi ∧ (next (atPc .eUnit).seq).trace = [] ++ [.frame [0x06] 0] := by decide

theorem test_meets_RecoveryAwaitClearsMaybeBusy :
    let first := withEngine fun e => { e with pc := .recover }
    let again := withEngine fun e => { e with pc := .recover, polls := 1, status := 0x01 }
    let s := withEngine fun e => { e with pc := .recover, polls := 2, status := 0x04, nunits := 1 }
    let late := withEngine fun e => { e with pc := .recover, polls := 2, status := 0x01 }
    first.eng.pc = .recover ∧ first.eng.polls = 0 ∧
    again.eng.pc = .recover ∧ again.eng.status.getLsbD 0 = true ∧ again.eng.polls ≠ again.cfg.pollLimit ∧
    s.eng.pc = .recover ∧ s.eng.polls ≠ 0 ∧ s.eng.status.getLsbD 0 = false ∧ 0 < s.eng.nunits ∧
    late.eng.pc = .recover ∧ late.eng.polls ≠ 0 ∧ late.eng.status.getLsbD 0 = true ∧
    late.eng.polls = late.cfg.pollLimit := by decide

/-- `ready` with a device that may still be busy. -/
def maybeBusy : State := withEngine fun e => { e with maybeBusy := true }

theorem test_meets_RecoveryAwaitClearsMaybeBusy_request :
    maybeBusy.cfg.valid = true ∧ maybeBusy.eng.pc = .idle ∧ maybeBusy.eng.maybeBusy = true ∧ maybeBusy.NoReset ∧
    eraseChecks maybeBusy.cfg 8 8 = true ∧ maybeBusy.host.bufs[1]? = some [0, 0] ∧
    readChecks maybeBusy.cfg 14 2 = true ∧ maybeBusy.host.bufs[0]? = some [0xD0, 0xD1, 0xD2, 0xD3] ∧
    writeChecks maybeBusy.cfg 12 4 = true :=
  ⟨by decide, rfl, rfl, by unfold State.NoReset; decide, by decide, by decide, by decide, by decide, by decide⟩

theorem test_meets_LinearSplitIsShiftAndMask : tiny.valid = true ∧ 15 < tiny.totalSize := by decide

theorem test_meets_SlicesCoverTheRequest :
    tiny.valid = true ∧ inRange tiny 3 13 = true ∧ 0 < 13 ∧ (planAccess tiny 3 13)[0]? = some ⟨0, 3, 1, 0⟩ ∧
    (planAccess tiny 3 13)[1]? = some ⟨1, 0, 4, 1⟩ := by decide

theorem test_meets_ErasePlanCoversWholeBlocks :
    tiny.valid = true ∧ eraseChecks tiny 8 8 = true ∧ eraseChecks tiny 0 16 = true := by decide

/-- The small instance in DEAD. -/
def dead : State := atPc .dead

theorem test_meets_GeometryReportsTheConfiguration :
    ready.eng.pc.ready = true ∧ ready.resetNow = false ∧ dead.eng.pc.ready = true ∧ dead.resetNow = false := by
  decide

theorem test_meets_FailedChecksHaveNoSideEffects :
    ready.eng.pc.ready = true ∧ ready.resetNow = false ∧ ready.host.bufs[0]? = some [0xD0, 0xD1, 0xD2, 0xD3] ∧
    ready.cfg.totalSize ≤ 16 ∧ ready.cfg.totalSize - 13 < 4 ∧ 4 % ready.cfg.blockSize ≠ 0 ∧
    12 % ready.cfg.blockSize ≠ 0 ∧ 2 % ready.cfg.pageSize ≠ 0 ∧ 6 % ready.cfg.pageSize ≠ 0 ∧
    (12 < tiny.totalSize ∧ 4 ≤ tiny.totalSize - 12 ∧ 12 % tiny.pageSize = 0 ∧ 4 % tiny.pageSize = 0) ∧
    (8 < tiny.totalSize ∧ 8 ≤ tiny.totalSize - 8 ∧ 8 % tiny.blockSize = 0) := by decide

/-- `ready` with an empty buffer. -/
def withEmptyBuffer : State := { ready with host := { ready.host with bufs := [[]] } }

theorem test_meets_EmptyRequestsSendNoFrame :
    withEmptyBuffer.eng.pc.ready = true ∧ withEmptyBuffer.resetNow = false ∧
    eraseChecks withEmptyBuffer.cfg 8 0 = true ∧ withEmptyBuffer.host.bufs[0]? = some [] ∧
    readChecks withEmptyBuffer.cfg 15 0 = true ∧ writeChecks withEmptyBuffer.cfg 12 0 = true ∧
    eraseChecks withEmptyBuffer.cfg 1 0 = false := by decide

theorem test_dead_steps : dead.NoReset ∧ ∃ t, step dead = .next t := ⟨by unfold State.NoReset; decide, _, rfl⟩

theorem test_meets_DeadEngineSendsNothing :
    dead.eng.pc = .dead ∧ dead.resetNow = false ∧ eraseChecks dead.cfg 8 8 = true ∧
    dead.host.bufs[0]? = some [0xD0, 0xD1, 0xD2, 0xD3] ∧ readChecks dead.cfg 12 4 = true ∧
    writeChecks dead.cfg 12 4 = true ∧ dead.framePort = none ∧ dead.host.moves = [] ∧
    (next (step dead)).eng.pc = .dead := by decide

theorem test_meets_UnassignedOperationsAreInvalid :
    let s := withRecord ⟨0x04, 255, 0, none⟩
    s.cfg.valid = true ∧ s.framePort = none ∧ s.eng.pc.ready = true ∧ HostMove.reset ∉ s.host.moves ∧
    s.host.requests = [⟨0x04, 255, 0, none⟩] ∧ 255 < 2 ^ s.cfg.addrWidth ∧ 4 ≤ (0x04 : Byte).toNat := by decide

theorem test_meets_RequestsThatDoNotRun :
    ((Instr.erase 0 8 none).isCommand = false ∧ (atPc .pBusy).eng.pc.ready = false) ∧ ready.eng.pc.ready = true ∧
    (∀ h b, some 1 = some h → ready.host.bufs[h]? = some b → b.length ≠ 3) ∧
    (∀ h b, (none : Option Nat) = some h → ready.host.bufs[h]? = some b → b.length ≠ 3) := by
  refine ⟨by decide, by decide, ?_, nofun⟩
  rintro h b hh hb
  cases hh; cases hb; decide

theorem test_meets_EveryRequestEndsReady :
    ready.cfg.valid = true ∧ ready.eng.pc.ready = true ∧ ready.NoReset ∧
    (Instr.read 0 2 (some 1)).isCommand = false ∧ (Instr.erase 0 8 none).isCommand = false ∧
    ∀ offset length buf,
      Instr.read 0 2 (some 1) = .read offset length buf ∨ Instr.read 0 2 (some 1) = .write offset length buf →
      ∃ h b, buf = some h ∧ ready.host.bufs[h]? = some b ∧ b.length = length := by
  refine ⟨by decide, by decide, by unfold State.NoReset; decide, by decide, by decide, ?_⟩
  rintro offset length buf (h | h)
  · cases h; exact ⟨1, [0, 0], rfl, by decide, rfl⟩
  · cases h

theorem test_meets_RequestFramesAreBounded :
    ready.cfg.valid = true ∧ ready.eng.pc.ready = true ∧ ready.NoReset ∧
    (Instr.read 0 2 (some 1)).isCommand = false ∧ ∃ t, exec (.read 0 2 (some 1)) ready = .next t :=
  ⟨by decide, by decide, by unfold State.NoReset; decide, by decide, _, rfl⟩

theorem test_meets_HostOperationsWriteOnlyTheirRegisters :
    ready.eng.pc.ready = true ∧ ready.NoReset ∧ (∃ t, exec (.geometry 1 2 none) ready = .next t) ∧
    (∃ t, exec (.erase 0 8 none) ready = .next t) ∧ (∃ t, exec (.read 0 2 (some 1)) ready = .next t) ∧
    ∃ t, exec (.write 4 4 (some 0)) ready = .next t :=
  ⟨by decide, by unfold State.NoReset; decide, ⟨_, rfl⟩, ⟨_, rfl⟩, ⟨_, rfl⟩, _, rfl⟩

theorem test_meets_ArrayChangesStayInTheRange :
    ready.Protocol ∧ ready.dev.busy = false ∧ (∃ t, exec (.erase 0 8 none) ready = .next t) ∧
    ∃ t, exec (.write 4 4 (some 0)) ready = .next t :=
  ⟨test_ready_protocol, rfl, ⟨_, rfl⟩, _, rfl⟩

theorem test_meets_ReadChangesOnlyTheCache :
    ready.Protocol ∧ ready.dev.busy = false ∧ ∃ t, exec (.read 0 2 (some 1)) ready = .next t :=
  ⟨test_ready_protocol, rfl, _, rfl⟩

theorem test_meets_CompletedUnitsStand :
    ready.Protocol ∧ ready.eng.pc = .idle ∧ ready.eng.maybeBusy = false ∧ ready.dev.bp = 0x00 ∧
    eraseChecks ready.cfg 8 8 = true ∧ ready.host.bufs[0]? = some [0xD0, 0xD1, 0xD2, 0xD3] ∧
    writeChecks ready.cfg 4 4 = true ∧ (∀ a < 8, 4 ≤ a → ready.dev.array.read a = 0xFF) ∧
    readChecks ready.cfg 3 4 = true :=
  ⟨test_ready_protocol, rfl, rfl, rfl, by decide, by decide, by decide, by decide, by decide⟩

/-- A READ of two slices whose second load never completes keeps the bytes of the first (rule R264). -/
theorem test_read_fails_in_slice_1 :
    let s := { withDraws (fun d => { d with completes := [true, false, false] }) with
      host := { ready.host with bufs := [[0, 0]] } }
    let t := next (exec (.read 3 2 (some 0)) s)
    t.host.response = some ⟨.timeout, 0, none⟩ ∧ t.eng.unit = 1 ∧
      (t.host.bufs[0]?.bind fun b => b[0]?) = some 0x13 := by decide

theorem test_meets_EraseErasesItsRange :
    ready.Protocol ∧ ready.eng.pc = .idle ∧ ready.eng.maybeBusy = false ∧ ready.dev.bp = 0x00 ∧
    (∀ m ∈ ready.host.moves, m = .quiet) ∧ eraseChecks ready.cfg 8 8 = true ∧
    ready.Smooth (3 * (8 / ready.cfg.pageSize)) (8 / ready.cfg.pageSize) :=
  ⟨test_ready_protocol, rfl, rfl, rfl, by decide, by decide, by decide, by decide, by decide⟩

theorem test_meets_WriteStoresItsBuffer :
    ready.Protocol ∧ ready.eng.pc = .idle ∧ ready.eng.maybeBusy = false ∧ ready.dev.bp = 0x00 ∧
    (∀ m ∈ ready.host.moves, m = .quiet) ∧ writeChecks ready.cfg 4 4 = true ∧
    ready.host.bufs[0]? = some [0xD0, 0xD1, 0xD2, 0xD3] ∧
    (∀ a < 8, 4 ≤ a → ready.dev.array.read a = 0xFF) ∧
    ready.Smooth (4 * (4 / ready.cfg.pageSize)) (4 / ready.cfg.pageSize) :=
  ⟨test_ready_protocol, rfl, rfl, rfl, by decide, by decide, by decide, by decide, by decide, by decide, by decide⟩

theorem test_meets_ReadFillsItsBuffer :
    ready.Protocol ∧ ready.eng.pc = .idle ∧ ready.eng.maybeBusy = false ∧
    (∀ m ∈ ready.host.moves, m = .quiet) ∧ readChecks ready.cfg 3 2 = true ∧
    ready.host.bufs[1]? = some [0, 0] ∧
    ready.Smooth (3 * spannedPages ready.cfg 3 2) (spannedPages ready.cfg 3 2) :=
  ⟨test_ready_protocol, rfl, rfl, by decide, by decide, by decide, by decide, by decide, by decide⟩

end Sys2Proof.Tests
end

/-! ### What a step fetches

One equation for each kind of step, and the inversion of a step that answers a next state. -/

section
namespace Sys2Proof.Machine

/-- Fetch refuses a configuration that breaks R10, whatever stands on the ports. -/
theorem fetch_of_invalid {s : State} (h : s.cfg.valid = false) : fetch s = .done (.refused .badConfiguration) := by
  simp [fetch, h]

/-- A frame on the port is fetched before anything else. -/
theorem fetch_of_frame {s : State} {f : Frame} (hv : s.cfg.valid = true) (hf : s.framePort = some f) :
    fetch s = fetchFrame s f := by
  simp [fetch, hv, hf]

/-- A READY engine that nobody resets looks at the request port. -/
theorem fetch_of_ready {s : State} (hv : s.cfg.valid = true) (hf : s.framePort = none)
    (hp : s.eng.pc.ready = true) (hr : s.resetNow = false) : fetch s = fetchRequest s.takeMove := by
  simp [fetch, hv, hf, hp, hr]

/-- Where no frame stands on the port and no record can be taken, the engine moves. -/
theorem fetch_of_moving {s : State} (hv : s.cfg.valid = true) (hf : s.framePort = none)
    (hm : s.eng.pc.ready = false ∨ s.resetNow = true) : fetch s = .done s.transition := by
  rcases hm with hm | hm <;> simp [fetch, hv, hf, hm]

/-- A decoded frame runs in the state with the port emptied. -/
theorem fetchFrame_of_ok {s : State} {f : Frame} {i : Instr} (h : decodeFrame f = .ok i) :
    fetchFrame s f = .instr i { s with framePort := none } := by
  simp [fetchFrame, h]

/-- The device takes and rejects a frame that is no command (R107). -/
theorem fetchFrame_of_error {s : State} {f : Frame} {e : DecodeError} (h : decodeFrame f = .error e) :
    fetchFrame s f = .done (.next (State.transact { s with framePort := none } (devReject f.rx))) := by
  simp [fetchFrame, h]

/-- With no record on the request port the engine waits (R281). -/
theorem fetchRequest_of_empty {s : State} (hq : s.host.requests = []) : fetchRequest s = .done (.next s) := by
  simp [fetchRequest, hq]

/-- The record at the head of the request port is too wide for it. -/
theorem fetchRequest_of_wide {s : State} {r : Request} {rest : List Request}
    (hq : s.host.requests = r :: rest) (hw : recordFits s.cfg r = false) :
    fetchRequest s = .done (.refused .recordTooWide) := by
  simp [fetchRequest, hq, hw]

/-- A record that fits and decodes is taken from the port, and its instruction runs. -/
theorem fetchRequest_of_ok {s : State} {r : Request} {rest : List Request} {i : Instr}
    (hq : s.host.requests = r :: rest) (hw : recordFits s.cfg r = true) (hd : decodeRequest r = .ok i) :
    fetchRequest s = .instr i { s with host := { s.host with requests := rest } } := by
  simp [fetchRequest, hq, hw, hd]

/-- A record that fits and has an unassigned operation is taken from the port and answered (R110). -/
theorem fetchRequest_of_error {s : State} {r : Request} {rest : List Request} {e : DecodeError}
    (hq : s.host.requests = r :: rest) (hw : recordFits s.cfg r = true) (hd : decodeRequest r = .error e) :
    fetchRequest s = .done (execUnassigned r { s with host := { s.host with requests := rest } }) := by
  simp [fetchRequest, hq, hw, hd]

/-- A record is too wide where its offset or its length needs more than ADDR_WIDTH bits (R109). -/
theorem recordFits_eq_false_iff (c : Config) (r : Request) :
    recordFits c r = false ↔ 2 ^ c.addrWidth ≤ r.offset ∨ 2 ^ c.addrWidth ≤ r.length := by
  simp only [recordFits, fitsField, Bool.and_eq_false_iff, decide_eq_false_iff_not, not_lt]

/-- The record at the head of the request port and the host's move are taken, `rest` stays queued. -/
def State.takeRecord (s : State) (rest : List Request) : State :=
  { s with host := { s.host with requests := rest, moves := s.host.moves.tail } }

/-- A READY engine has no request in flight. -/
theorem Pc.not_inFlight_of_ready {p : Pc} (h : p.ready = true) : p.inFlight = false := by
  cases p <;> simp_all [Pc.ready, Pc.inFlight]

/-- A READY engine ignores a cancel, so taking the host's move and then a record changes the ports only (R33). -/
theorem State.takeRecord_eq_of_ready {s : State} (h : s.eng.pc.ready = true) (rest : List Request) :
    { s.takeMove with host := { s.takeMove.host with requests := rest } } = s.takeRecord rest := by
  simp [State.takeMove, State.takeRecord, Pc.not_inFlight_of_ready h]

/-- What happened in a step that answers a next state. -/
inductive StepCase (s t : State) : Prop where
  /-- the device took a frame that is a command -/
  | command (f : Frame) (i : Instr) (port : s.framePort = some f) (decoded : decodeFrame f = .ok i)
      (runs : exec i { s with framePort := none } = .next t)
  /-- the device took a frame that is no command -/
  | rejected (f : Frame) (e : DecodeError) (port : s.framePort = some f) (decoded : decodeFrame f = .error e)
      (result : t = State.transact { s with framePort := none } (devReject f.rx))
  /-- a READY engine found no record -/
  | waited (port : s.framePort = none) (ready : s.eng.pc.ready = true) (noReset : s.resetNow = false)
      (empty : s.host.requests = []) (result : t = s.takeMove)
  /-- a READY engine took a record that is a host operation -/
  | operation (r : Request) (rest : List Request) (i : Instr) (port : s.framePort = none)
      (ready : s.eng.pc.ready = true) (noReset : s.resetNow = false) (queued : s.host.requests = r :: rest)
      (fits : recordFits s.cfg r = true) (decoded : decodeRequest r = .ok i)
      (runs : exec i (s.takeRecord rest) = .next t)
  /-- a READY engine took a record with an unassigned operation -/
  | unassigned (r : Request) (rest : List Request) (e : DecodeError) (port : s.framePort = none)
      (ready : s.eng.pc.ready = true) (noReset : s.resetNow = false) (queued : s.host.requests = r :: rest)
      (fits : recordFits s.cfg r = true) (decoded : decodeRequest r = .error e)
      (runs : execUnassigned r (s.takeRecord rest) = .next t)
  /-- the engine made its next transition -/
  | moved (port : s.framePort = none) (notTaking : s.eng.pc.ready = false ∨ s.resetNow = true)
      (runs : s.transition = .next t)

/-- Every step that answers a next state has a valid configuration and is one of the six cases. -/
theorem step_cases {s t : State} (h : step s = .next t) : s.cfg.valid = true ∧ StepCase s t := by
  cases hv : s.cfg.valid with
  | false => simp [step, fetch_of_invalid hv] at h
  | true =>
    refine ⟨rfl, ?_⟩
    cases hf : s.framePort with
    | some f =>
      rw [step, fetch_of_frame hv hf] at h
      cases hd : decodeFrame f with
      | ok i => rw [fetchFrame_of_ok hd] at h; exact .command f i hf hd h
      | error e => rw [fetchFrame_of_error hd] at h; cases h; exact .rejected f e hf hd rfl
    | none =>
      by_cases hp : s.eng.pc.ready = true ∧ s.resetNow = false
      · obtain ⟨hp, hr⟩ := hp
        rw [step, fetch_of_ready hv hf hp hr] at h
        cases hq : s.host.requests with
        | nil => rw [fetchRequest_of_empty (s := s.takeMove) hq] at h; cases h; exact .waited hf hp hr hq rfl
        | cons r rest =>
          cases hw : recordFits s.cfg r with
          | false => rw [fetchRequest_of_wide (s := s.takeMove) hq hw] at h; cases h
          | true =>
            cases hd : decodeRequest r with
            | ok i =>
              rw [fetchRequest_of_ok (s := s.takeMove) hq hw hd, State.takeRecord_eq_of_ready hp] at h
              exact .operation r rest i hf hp hr hq hw hd h
            | error e =>
              rw [fetchRequest_of_error (s := s.takeMove) hq hw hd, State.takeRecord_eq_of_ready hp] at h
              exact .unassigned r rest e hf hp hr hq hw hd h
      · have hp' : s.eng.pc.ready = false ∨ s.resetNow = true := by
          simpa only [not_and_or, Bool.not_eq_true, Bool.not_eq_false] using hp
        rw [step, fetch_of_moving hv hf hp'] at h
        exact .moved hf hp' h

/-- Settles O5: fetch takes the frame, and the step is its instruction. -/
theorem stepRunsTheFrameOnThePort : Obligations.StepRunsTheFrameOnThePort := by
  intro s f i hv hf hd
  rw [step, fetch_of_frame hv hf, fetchFrame_of_ok hd]

/-- Settles O8: the two refusals are the two ways fetch stops. -/
theorem stepRefusalsAreNamed : Obligations.StepRefusalsAreNamed := by
  refine ⟨fun s hv => ?_, fun s r rest hv hf hp hr hq hwide => ?_⟩
  · rw [step, fetch_of_invalid hv]
  · have hw : recordFits s.takeMove.cfg r = false := (recordFits_eq_false_iff _ _).2 hwide
    rw [step, fetch_of_ready hv hf hp hr, fetchRequest_of_wide (s := s.takeMove) hq hw]

end Sys2Proof.Machine
end

/-! ### Relations that follow the device

Many invariants speak of the configuration and the device only. What keeps them is said here once, for every relation
between a state and a later one: it need only be known for the device's commands and for the bytes that an unsettled
unit spoils. The walk through the sequencer, the requests and the step is then shared. -/

section
namespace Sys2Proof.Machine

/-- A transitive relation between states that depends on the configuration and the device only, and that the device's
commands and a spoiled range of ARRAY keep. -/
structure FollowsDevice (R : State → State → Prop) : Prop where
  trans : ∀ {s t u}, R s t → R t u → R s u
  quiet : ∀ {s t}, t.cfg = s.cfg → t.dev = s.dev → R s t
  spoilArray : ∀ s lo n, R s (s.spoilArray lo n)
  command : ∀ rx i s, R s (deviceOf rx i s).2

namespace FollowsDevice

variable {R : State → State → Prop} (hR : FollowsDevice R)
include hR

theorem refl (s : State) : R s s := hR.quiet rfl rfl

/-- What comes after an update outside the configuration and the device. -/
theorem after_quiet {s t u : State} (h : R t u) (hc : t.cfg = s.cfg) (hd : t.dev = s.dev) : R s u :=
  hR.trans (hR.quiet hc hd) h

/-- What comes before an update outside the configuration and the device. -/
theorem then_quiet {s t u : State} (h : R s t) (hc : u.cfg = t.cfg) (hd : u.dev = t.dev) : R s u :=
  hR.trans h (hR.quiet hc hd)

/-! ### Frames -/

/-- The device rejects a host operation as it rejects any other frame that is no command. -/
theorem devReject (rx : Nat) (s : State) : R s (devReject rx s).2 := hR.command rx (.geometry 0 0 none) s

theorem deviceReceives (f : Frame) (s : State) : R s (deviceReceives f s).2 := by
  cases hd : decodeFrame f with
  | ok i => simpa only [Machine.deviceReceives, hd] using hR.command f.rx i s
  | error e => simpa only [Machine.deviceReceives, hd] using hR.devReject f.rx s

theorem transact {device : State → List Byte × State} (hd : ∀ s, R s (device s).2) (s : State) :
    R s (s.transact device) := by
  have hacted : R s (device { s with draws := s.draws.pastTransport }).2 := hR.after_quiet (hd _) rfl rfl
  rcases s.transact_cases device with ⟨-, h⟩ | ⟨-, h⟩ | ⟨-, h⟩ <;> rw [h]
  · exact hR.then_quiet hacted rfl rfl
  · exact hR.then_quiet hacted rfl rfl
  · exact hR.quiet rfl rfl

theorem send (s : State) (tx : List Byte) (rx : Nat) : R s (s.send tx rx) :=
  hR.after_quiet (hR.transact (hR.deviceReceives ⟨tx, rx⟩) { s with trace := s.trace ++ [.frame tx rx] }) rfl rfl

/-! ### The end of a request -/

theorem spoilBuffer (s : State) (i : Nat) : R s (s.spoilBuffer i) := by
  obtain ⟨hc, -, hd, -⟩ := s.spoilBuffer_rest i
  exact hR.quiet hc hd

theorem spoilUnit (s : State) : R s s.spoilUnit := by
  unfold State.spoilUnit
  split_ifs
  · exact hR.spoilArray s _ _
  · exact hR.spoilArray s _ _
  · exact hR.spoilBuffer s _
  · exact hR.refl s

theorem raise (s : State) (e : ErrorCode) : R s (s.raise e) := hR.quiet rfl rfl

theorem abortUnit (s : State) (e : ErrorCode) : R s (s.abortUnit e) := hR.trans (hR.spoilUnit s) (hR.raise _ e)

theorem raiseCancelled (s : State) : R s s.raiseCancelled := by
  unfold State.raiseCancelled
  split
  · exact hR.abortUnit s _
  · exact hR.raise s _

theorem raiseBeforeUnits (s : State) (e : ErrorCode) : R s (s.raiseBeforeUnits e) := by
  unfold State.raiseBeforeUnits
  split
  · exact hR.trans (hR.spoilBuffer s 0) (hR.raise _ e)
  · exact hR.raise s e

/-! ### The parts of a sequence -/

theorem loopTest (s : State) : R s s.loopTest := by
  unfold State.loopTest
  split <;> exact hR.quiet rfl rfl

theorem unitFrame (s : State) (tx : List Byte) (pc : Pc) : R s (s.unitFrame tx pc) := by
  refine hR.trans (hR.send s tx 0) ?_
  simp only [State.unitFrame]
  split
  · exact hR.abortUnit _ _
  · exact hR.quiet rfl rfl

theorem poll (s : State) (polling : Pc) {onError : State → State} (he : ∀ t, R t (onError t)) :
    R s (s.poll polling onError) := by
  refine hR.trans (hR.send s [opcRdsr, statusReg] 1) ?_
  simp only [State.poll]
  split
  · exact he _
  · exact hR.quiet rfl rfl

theorem pollUnit (s : State) (polling : Pc) : R s (s.pollUnit polling) :=
  hR.poll s polling fun t => hR.abortUnit t _

theorem pollRecover (s : State) : R s s.pollRecover := hR.poll s .recover fun t => hR.raiseBeforeUnits t _

theorem awaitUnit (s : State) (mask : Byte) (polling : Pc) : R s ((s.startAwait mask).pollUnit polling) :=
  hR.after_quiet (hR.pollUnit _ polling) rfl rfl

theorem seqBusy {s : State} (polling : Pc) {settled failed : State → State} (hs : R s (settled s))
    (hf : R s (failed s)) : R s (s.seqBusy polling settled failed) := by
  unfold State.seqBusy
  split
  · exact hs
  · exact hf
  · exact hR.abortUnit s _
  · exact hR.after_quiet (hR.pollUnit s.wait polling) rfl rfl

theorem firstUnit (s : State) : R s s.firstUnit := hR.after_quiet (hR.loopTest _) rfl rfl

theorem seqRecover (s : State) : R s s.seqRecover := by
  unfold State.seqRecover
  split
  · exact hR.pollRecover s
  · split
    · exact hR.after_quiet (hR.firstUnit _) rfl rfl
    · exact hR.after_quiet (hR.firstUnit _) rfl rfl
    · exact hR.raiseBeforeUnits s _
    · exact hR.after_quiet (hR.pollRecover s.wait) rfl rfl

theorem seqBringup (s : State) : R s s.seqBringup := by
  refine hR.trans (hR.send s [opcWrsr, protectReg, 0x00] 0) ?_
  simp only [State.seqBringup]
  split <;> exact hR.quiet rfl rfl

theorem seqEUnit (s : State) : R s s.seqEUnit := by
  unfold State.seqEUnit
  split
  · exact hR.raiseCancelled s
  · exact hR.after_quiet (hR.unitFrame _ _ _) rfl rfl

theorem seqPUnit (s : State) : R s s.seqPUnit := by
  unfold State.seqPUnit
  split
  · exact hR.raiseCancelled s
  · exact hR.after_quiet (hR.unitFrame _ _ _) rfl rfl

theorem seqRUnit (s : State) : R s s.seqRUnit := by
  unfold State.seqRUnit
  split
  · exact hR.raiseCancelled s
  · exact hR.after_quiet (hR.unitFrame s.loadSlice _ _) rfl rfl

theorem seqPWel {s t : State} (h : s.seqPWel = .next t) : R s t := by
  unfold State.seqPWel at h
  split at h
  · cases h
  · cases h; exact hR.unitFrame s _ _

theorem memWrite {s t : State} {i : Nat} {v : List Byte} (h : s.memWrite i v = some t) : R s t := by
  unfold State.memWrite at h
  split at h
  · cases h
  · split at h
    · cases h
      obtain ⟨hc, -, hd, -⟩ := s.setBuffer_rest _
      exact hR.quiet hc hd
    · cases h

theorem seqRReady {s t : State} (h : s.seqRReady = .next t) : R s t := by
  refine hR.trans (hR.send s (readCacheFrame s.eng.col) s.eng.slen) ?_
  simp only [State.seqRReady] at h
  split at h
  · cases h; exact hR.abortUnit _ _
  · split at h
    · cases h
    · rename_i u hu
      cases h
      exact hR.trans (hR.memWrite hu) (hR.after_quiet (hR.loopTest _) rfl rfl)

theorem seqFailed (s : State) : R s s.seqFailed := by
  unfold State.seqFailed
  split <;> exact hR.quiet rfl rfl

theorem seqWrdi (s : State) : R s s.seqWrdi := by
  refine hR.trans (hR.send s [opcWrdi] 0) ?_
  simp only [State.seqWrdi]
  split <;> exact hR.quiet rfl rfl

/-! ### The sequencer, requests and the step -/

/-- The walk through the sequencer, one case for each value of `pc` (R24). -/
theorem seq {s t : State} (h : s.seq = .next t) : R s t := by
  cases hp : s.eng.pc <;> simp only [State.seq, hp, Host.Outcome.next.injEq] at h
  case pWel => exact hR.seqPWel h
  case rReady => exact hR.seqRReady h
  all_goals subst h
  case bringup => exact hR.seqBringup s
  case idle => exact hR.refl s
  case dead => exact hR.refl s
  case recover => exact hR.seqRecover s
  case eUnit => exact hR.seqEUnit s
  case eWel => exact hR.unitFrame s _ _
  case eCmd => exact hR.awaitUnit s _ _
  case eBusy => exact hR.seqBusy _ (hR.quiet rfl rfl) (hR.quiet rfl rfl)
  case eReady => exact hR.loopTest s
  case eFailed => exact hR.seqFailed s
  case pUnit => exact hR.seqPUnit s
  case pLoaded => exact hR.unitFrame s _ _
  case pCmd => exact hR.awaitUnit s _ _
  case pBusy => exact hR.seqBusy _ (hR.quiet rfl rfl) (hR.quiet rfl rfl)
  case pReady => exact hR.loopTest s
  case pFailed => exact hR.seqFailed s
  case rUnit => exact hR.seqRUnit s
  case rPageLoaded => exact hR.awaitUnit s _ _
  case rBusy => exact hR.seqBusy _ (hR.quiet rfl rfl) (hR.quiet rfl rfl)
  case wrdi => exact hR.seqWrdi s
  case respond => exact hR.quiet rfl rfl

theorem transition {s t : State} (h : s.transition = .next t) : R s t := by
  unfold State.transition at h
  split at h
  · cases h; exact hR.quiet rfl rfl
  · exact hR.after_quiet (hR.seq h) rfl rfl

theorem runRequest {s t : State} (h : s.runRequest = .next t) : R s t :=
  runInFlight_induction hR.refl (fun _ _ _ _ hm hrest => hR.trans (hR.transition hm) hrest) h

theorem handle (s : State) (checks : Bool) (nunits : Nat) : R s (s.handle checks nunits) := by
  unfold State.handle
  split_ifs
  · exact hR.raise s _
  · exact hR.quiet rfl rfl
  · exact hR.raiseBeforeUnits s _
  · simp only [State.startUnits]
    split
    · exact hR.quiet rfl rfl
    · exact hR.after_quiet (hR.firstUnit _) rfl rfl

theorem serve {s t : State} {r : Request} {op : State → State} (hop : ∀ u, R u (op u))
    (h : s.serve r op = .next t) : R s t := by
  unfold State.serve at h
  split at h
  · exact hR.after_quiet (hR.trans (hop (s.accept r)) (hR.runRequest h)) rfl rfl
  · cases h; exact hR.refl s

theorem serveBuffered {s t : State} {r : Request} {op : State → State} (hop : ∀ u, R u (op u))
    (h : s.serveBuffered r op = .next t) : R s t := by
  unfold State.serveBuffered at h
  split at h
  · split at h
    · exact hR.after_quiet (hR.trans (hop (s.accept r)) (hR.runRequest h)) rfl rfl
    · cases h
  · cases h; exact hR.refl s

/-- An SPI command is one transaction, a host operation a request run to its response. -/
theorem exec {s t : State} {i : Instr} (h : exec i s = .next t) : R s t := by
  cases hi : i.isCommand with
  | true =>
    rw [exec_command hi] at h
    cases h
    exact hR.transact (hR.command 0 i) s
  | false =>
    cases i with
    | geometry offset length buf => exact hR.serve (op := State.geometryOp) (fun u => hR.quiet rfl rfl) h
    | erase offset length buf => exact hR.serve (fun u => hR.handle u _ _) h
    | read offset length buf => exact hR.serveBuffered (fun u => hR.handle u _ _) h
    | write offset length buf => exact hR.serveBuffered (fun u => hR.handle u _ _) h
    | _ => cases hi

theorem execUnassigned {s t : State} {r : Request} (h : execUnassigned r s = .next t) : R s t :=
  hR.serve (fun u => hR.raise u _) h

/-- The step lemma: such a relation holds across every step, whole requests and resets included. -/
theorem step {s t : State} (h : step s = .next t) : R s t := by
  obtain ⟨-, hc⟩ := step_cases h
  cases hc with
  | command f i _ _ runs => exact hR.after_quiet (hR.exec runs) rfl rfl
  | rejected f e _ _ result => exact result ▸ hR.after_quiet (hR.transact (hR.devReject f.rx) _) rfl rfl
  | waited _ _ _ _ result => exact result ▸ hR.quiet rfl rfl
  | operation r rest i _ _ _ _ _ _ runs => exact hR.after_quiet (hR.exec runs) rfl rfl
  | unassigned r rest e _ _ _ _ _ _ runs => exact hR.after_quiet (hR.execUnassigned runs) rfl rfl
  | moved _ _ runs => exact hR.transition runs

end FollowsDevice

/-! ### The configuration -/

/-- The later state has the same configuration. -/
def SameConfig (s t : State) : Prop := t.cfg = s.cfg

/-- No command of the device and no spoiled range writes the configuration. -/
theorem sameConfig_followsDevice : FollowsDevice SameConfig where
  trans hst htu := htu.trans hst
  quiet hc _ := hc
  spoilArray s lo n := s.spoilArray_cfg lo n
  command rx i s := (deviceOnly_deviceOf rx i s).1

/-- Settles O27: the configuration follows the device's commands, and these leave it alone. -/
theorem noStepWritesTheConfiguration : Obligations.NoStepWritesTheConfiguration :=
  fun _ _ h => sameConfig_followsDevice.step h

end Sys2Proof.Machine
end

/-! ### Steps that take no instruction, and the frame of an SPI command -/

section
namespace Sys2Proof.Machine

/-- Settles O7: where no frame and no record can be taken, fetch answers the engine's transition or the
waiting state. -/
theorem stepOtherwiseMovesTheEngine : Obligations.StepOtherwiseMovesTheEngine := by
  intro s hv hf
  refine ⟨fun hp => ?_, fun _ hr => ?_, fun hp hr hq => ?_⟩
  · rw [step, fetch_of_moving hv hf (.inl hp)]
  · rw [step, fetch_of_moving hv hf (.inr hr)]
  · rw [step, fetch_of_ready hv hf hp hr, fetchRequest_of_empty (s := s.takeMove) hq]
    simp [State.takeMove, Pc.not_inFlight_of_ready hp]

/-- Settles O10: a command is one transaction of a device action, and these touch nothing but the device. -/
theorem spiCommandsLeaveTheEngine : Obligations.SpiCommandsLeaveTheEngine :=
  fun s i hi => ⟨_, exec_command hi s, State.transact_sameEngine (deviceOnly_deviceOf 0 i) s⟩

end Sys2Proof.Machine
end

/-! ### DFAULT and BP under the device's commands -/

section
namespace Sys2Proof.Machine

section
variable (s : State)

@[simp] theorem State.answerAny_dev (n : Nat) : (s.answerAny n).2.dev = s.dev := rfl

/-- DevCheck sets DFAULT exactly on a busy device. -/
@[simp] theorem State.devCheck_dfault : s.devCheck.dev.dfault = (s.dev.busy || s.dev.dfault) := by
  unfold State.devCheck
  split <;> simp_all

@[simp] theorem State.devCheck_bp : s.devCheck.dev.bp = s.dev.bp := by
  unfold State.devCheck
  split <;> rfl

/-- DFAULT and BP: what no completion of a pending command writes (R140). -/
def Device.settings (d : Device) : Bool × Byte := (d.dfault, d.bp)

@[simp] theorem State.eraseArray_settings (page : Nat) (ok : Bool) :
    (s.eraseArray page ok).dev.settings = s.dev.settings := by
  unfold State.eraseArray
  split <;> rfl

@[simp] theorem State.programArray_settings (page : Nat) (ok : Bool) :
    (s.programArray page ok).dev.settings = s.dev.settings := by
  unfold State.programArray
  split <;> rfl

@[simp] theorem State.complete_settings : s.complete.dev.settings = s.dev.settings := by
  unfold State.complete
  split
  · rfl
  · rfl
  · exact State.eraseArray_settings { s with draws := s.draws.pastSucceeds } _ _
  · exact State.programArray_settings { s with draws := s.draws.pastSucceeds } _ _

@[simp] theorem State.maybeComplete_settings : s.maybeComplete.dev.settings = s.dev.settings := by
  simp only [State.maybeComplete]
  split_ifs
  · exact State.complete_settings { s with draws := s.draws.pastCompletes }
  · rfl
  · rfl

@[simp] theorem State.maybeComplete_dfault : s.maybeComplete.dev.dfault = s.dev.dfault :=
  congrArg Prod.fst s.maybeComplete_settings

@[simp] theorem State.maybeComplete_bp : s.maybeComplete.dev.bp = s.dev.bp :=
  congrArg Prod.snd s.maybeComplete_settings

end

/-- No command clears DFAULT. -/
theorem deviceOf_faulted (rx : Nat) (i : Instr) {s : State} (h : s.Faulted) : (deviceOf rx i s).2.Faulted := by
  unfold State.Faulted at h ⊢
  cases i with
  | rdid dummy n => simp only [deviceOf, devRdid, devReject]; split <;> simp [h]
  | rdsr reg => simp only [deviceOf, devRdsr]; split_ifs <;> simp [h]
  | wrsr reg value => simp only [deviceOf, devWrsr]; split <;> simp [h]
  | wren => simp [deviceOf, devWren, h]
  | wrdi => simp [deviceOf, devWrdi, h]
  | prdc page => simp only [deviceOf, devPrdc]; split <;> simp [h]
  | rdc col n => simp only [deviceOf, devRdc]; split <;> simp [h]
  | pld col data => simp only [deviceOf, devPld]; split <;> simp [h]
  | pex page => simp only [deviceOf, devPex]; split <;> simp [h]
  | bers page => simp only [deviceOf, devBers]; split <;> simp [h]
  | geometry | erase | read | write => simp [deviceOf, devReject]

/-- No command but WRSR writes BP. -/
theorem deviceOf_bp (rx : Nat) {i : Instr} (hi : ∀ reg value, i ≠ .wrsr reg value) (s : State) :
    (deviceOf rx i s).2.dev.bp = s.dev.bp := by
  cases i with
  | rdid dummy n => simp only [deviceOf, devRdid, devReject]; split <;> simp
  | rdsr reg => simp only [deviceOf, devRdsr]; split_ifs <;> simp
  | wrsr reg value => exact absurd rfl (hi reg value)
  | wren => simp [deviceOf, devWren]
  | wrdi => simp [deviceOf, devWrdi]
  | prdc page => simp only [deviceOf, devPrdc]; split <;> simp
  | rdc col n => simp only [deviceOf, devRdc]; split <;> simp
  | pld col data => simp only [deviceOf, devPld]; split <;> simp
  | pex page => simp only [deviceOf, devPex]; split <;> simp
  | bers page => simp only [deviceOf, devBers]; split <;> simp
  | geometry | erase | read | write => simp [deviceOf, devReject]

/-- The later state is faulted if the earlier one is. -/
def KeepsFault (s t : State) : Prop := s.Faulted → t.Faulted

/-- Sticky DFAULT follows the device: no command clears it, and nothing else writes it. -/
theorem keepsFault_followsDevice : FollowsDevice KeepsFault where
  trans hst htu h := htu (hst h)
  quiet _ hd h := by rwa [State.Faulted, hd]
  spoilArray _ _ _ h := h
  command rx i _ h := deviceOf_faulted rx i h

/-- Settles O25: no command of the device clears DFAULT, and a step changes the device through commands only. -/
theorem deviceFaultIsSticky : Obligations.DeviceFaultIsSticky :=
  fun _ _ h => keepsFault_followsDevice.step h

end Sys2Proof.Machine
end

/-! ### What a request leaves alone

A request writes pieces of the state that depend on its operation. `State.ledger` is everything else, as one value: each
part of a sequence has one equation for it, and the frame of a whole request is one equation too. -/

section
namespace Sys2Proof.Machine

/-- A buffer with its bytes forgotten and its length kept. -/
def wiped (b : List Byte) : List Byte := List.replicate b.length 0

/-- The host's buffers, of the one that BUF names only the length. -/
def State.otherBuffers (s : State) : List (List Byte) :=
  match s.eng.buf with
  | none => s.host.bufs
  | some h => s.host.bufs.modify h wiped

/-- What a request leaves alone from its acceptance to its response. -/
structure Ledger where
  cfg : Config
  framePort : Option Frame
  requests : List Request
  moves : List HostMove
  op : Byte
  offset : Nat
  length : Nat
  buf : Option Nat
  nunits : Nat
  cancel : Bool
  wasDead : Bool
  bufs : List (List Byte)
  /-- BP, which only bring-up writes -/
  bp : Option Byte
  /-- COL and SLEN, which only READ writes -/
  slice : Option (Nat × Nat)
  /-- DST, which READ and WRITE write -/
  dst : Option Nat

/-- The ledger of a state. With `exact` it holds BP and all that the operation in OP leaves alone; without, only what
every transition leaves alone. -/
def State.ledger (exact : Bool) (s : State) : Ledger where
  cfg := s.cfg
  framePort := s.framePort
  requests := s.host.requests
  moves := s.host.moves
  op := s.eng.op
  offset := s.eng.offset
  length := s.eng.length
  buf := s.eng.buf
  nunits := s.eng.nunits
  cancel := s.eng.cancel
  wasDead := s.eng.wasDead
  bufs := if exact = true ∧ (s.eng.op = hostErase ∨ s.eng.op = hostWrite) then s.host.bufs else s.otherBuffers
  bp := if exact then some s.dev.bp else none
  slice :=
    if exact = true ∧ (s.eng.op = hostErase ∨ s.eng.op = hostWrite) then some (s.eng.col, s.eng.slen) else none
  dst := if exact = true ∧ s.eng.op = hostErase then some s.eng.dst else none

section
variable {exact : Bool} (s : State)

@[simp] theorem State.ledger_goto (p : Pc) : (s.goto p).ledger exact = s.ledger exact := rfl
@[simp] theorem State.ledger_raise (e : ErrorCode) : (s.raise e).ledger exact = s.ledger exact := rfl
@[simp] theorem State.ledger_finish (n : Nat) : (s.finish n).ledger exact = s.ledger exact := rfl
@[simp] theorem State.ledger_respond : s.respond.ledger exact = s.ledger exact := rfl
@[simp] theorem State.ledger_wait : s.wait.ledger exact = s.ledger exact := rfl
@[simp] theorem State.ledger_startAwait (mask : Byte) : (s.startAwait mask).ledger exact = s.ledger exact := rfl
@[simp] theorem State.ledger_unitReady (p : Pc) : (s.unitReady p).ledger exact = s.ledger exact := rfl
@[simp] theorem State.ledger_enterRecover : s.enterRecover.ledger exact = s.ledger exact := rfl
@[simp] theorem State.ledger_spoilArray (lo n : Nat) : (s.spoilArray lo n).ledger exact = s.ledger exact := rfl

/-! #### Frames -/

/-- A frame whose opcode is not WRSR's is no WRSR. -/
theorem decodeFrame_ne_wrsr {f : Frame} {i : Instr} (hf : f.tx.head? ≠ some opcWrsr) (hd : decodeFrame f = .ok i)
    (reg value : Byte) : i ≠ .wrsr reg value := by
  rintro rfl
  unfold decodeFrame at hd
  split at hd
  · cases hd
  · rename_i opc rest htx
    have hopc : opc ≠ opcWrsr := by simpa [htx] using hf
    simp only [if_neg hopc] at hd
    split_ifs at hd
    · obtain ⟨-, h⟩ := readId_ok hd; cases h
    · obtain ⟨_, -, -, h⟩ := readRreg_ok hd; cases h
    · obtain ⟨-, -, h⟩ := readOp_ok hd; cases h
    · obtain ⟨-, -, h⟩ := readOp_ok hd; cases h
    · obtain ⟨_, _, -, -, h⟩ := readPage_ok hd; cases h
    · obtain ⟨_, _, -, -, h⟩ := readRcache_ok hd; cases h
    · obtain ⟨_, _, _, -, -, h⟩ := readWcache_ok hd; cases h
    · obtain ⟨_, _, -, -, h⟩ := readPage_ok hd; cases h
    · obtain ⟨_, _, -, -, h⟩ := readPage_ok hd; cases h

/-- The device keeps BP at every frame whose opcode is not WRSR's. -/
theorem deviceReceives_bp {f : Frame} (hf : f.tx.head? ≠ some opcWrsr) :
    (deviceReceives f s).2.dev.bp = s.dev.bp := by
  cases hd : decodeFrame f with
  | ok i => simpa only [deviceReceives, hd] using deviceOf_bp f.rx (decodeFrame_ne_wrsr hf hd) s
  | error e =>
    have hreject : (devReject f.rx s).2.dev.bp = s.dev.bp := deviceOf_bp f.rx (i := .geometry 0 0 none) (by simp) s
    simpa only [deviceReceives, hd] using hreject

theorem State.send_bp {tx : List Byte} (htx : tx.head? ≠ some opcWrsr) (rx : Nat) :
    (s.send tx rx).dev.bp = s.dev.bp := by
  unfold State.send
  rcases State.transact_cases { s with trace := s.trace ++ [.frame tx rx] } (deviceReceives ⟨tx, rx⟩)
    with ⟨-, h⟩ | ⟨-, h⟩ | ⟨-, h⟩ <;> rw [h]
  · exact deviceReceives_bp _ htx
  · exact deviceReceives_bp _ htx

/-- A frame leaves the ledger alone; its BP too unless the frame is a WRSR. -/
theorem State.ledger_send {tx : List Byte} (htx : exact = true → tx.head? ≠ some opcWrsr) (rx : Nat) :
    (s.send tx rx).ledger exact = s.ledger exact := by
  cases exact with
  | false => simp [State.ledger, State.otherBuffers]
  | true => simp [State.ledger, State.otherBuffers, s.send_bp (htx rfl)]

/-! #### Buffers -/

/-- New contents of the same length for the buffer that BUF names leave the other buffers. -/
theorem State.otherBuffers_setBuffer {b b' : List Byte} (hb : s.buffer = some b) (hlen : b'.length = b.length) :
    (s.setBuffer b').otherBuffers = s.otherBuffers := by
  cases hh : s.eng.buf with
  | none => simp [State.buffer, hh] at hb
  | some h =>
    have hget : s.host.bufs[h]? = some b := by simpa [State.buffer, hh] using hb
    simp only [State.otherBuffers, State.setBuffer, hh]
    apply List.ext_getElem?
    intro k
    by_cases hk : h = k
    · subst hk
      obtain ⟨hlt, hval⟩ := List.getElem?_eq_some_iff.1 hget
      simp [hlt, hval, wiped, hlen]
    · simp [List.getElem?_set_ne hk, hk]

/-- Where OP is neither ERASE nor WRITE, the exact ledger forgets the request's own buffer and slice too. -/
theorem not_exact_of_op {op : Byte} (hop : exact = true → op ≠ hostErase ∧ op ≠ hostWrite) :
    ¬ (exact = true ∧ (op = hostErase ∨ op = hostWrite)) := by
  rintro ⟨he, h | h⟩
  · exact (hop he).1 h
  · exact (hop he).2 h

theorem State.ledger_setBuffer {b b' : List Byte} (hb : s.buffer = some b) (hlen : b'.length = b.length)
    (hop : exact = true → s.eng.op ≠ hostErase ∧ s.eng.op ≠ hostWrite) :
    (s.setBuffer b').ledger exact = s.ledger exact := by
  obtain ⟨hcfg, heng, hdev, -, hport, -, -⟩ := s.setBuffer_rest b'
  have hhost : (s.setBuffer b').host = { s.host with bufs := (s.setBuffer b').host.bufs } := by
    unfold State.setBuffer; split <;> rfl
  have hexact := not_exact_of_op hop
  simp only [State.ledger, hcfg, heng, hdev, hport, hexact, if_false, s.otherBuffers_setBuffer hb hlen]
  rw [hhost]

/-- READ is neither ERASE nor WRITE. -/
theorem ne_erase_write_of_read {op : Byte} (h : op = hostRead) : op ≠ hostErase ∧ op ≠ hostWrite := by
  subst h; decide

theorem State.ledger_spoilBuffer (i : Nat) (hop : s.eng.op = hostRead) :
    (s.spoilBuffer i).ledger exact = s.ledger exact := by
  unfold State.spoilBuffer
  split
  · rfl
  · rename_i b hb
    refine Eq.trans ?_ (s.ledger_setBuffer hb (b' := b.take i ++ s.draws.anyBytes (b.length - i)) ?_
      fun _ => ne_erase_write_of_read hop)
    · rfl
    · simp [Draws.anyBytes]; omega

theorem State.ledger_memWrite {t : State} {i : Nat} {v : List Byte} (h : s.memWrite i v = some t)
    (hop : exact = true → s.eng.op ≠ hostErase ∧ s.eng.op ≠ hostWrite) : t.ledger exact = s.ledger exact := by
  unfold State.memWrite at h
  split at h
  · cases h
  · rename_i b hb
    split at h
    · cases h
      refine s.ledger_setBuffer hb ?_ hop
      simp; omega
    · cases h

/-! #### The parts of a sequence -/

@[simp] theorem State.ledger_spoilUnit : s.spoilUnit.ledger exact = s.ledger exact := by
  unfold State.spoilUnit
  split_ifs with he hw hr
  · exact s.ledger_spoilArray _ _
  · exact s.ledger_spoilArray _ _
  · exact s.ledger_spoilBuffer _ hr
  · rfl

@[simp] theorem State.ledger_abortUnit (e : ErrorCode) : (s.abortUnit e).ledger exact = s.ledger exact :=
  s.ledger_spoilUnit

@[simp] theorem State.ledger_raiseCancelled : s.raiseCancelled.ledger exact = s.ledger exact := by
  unfold State.raiseCancelled
  split <;> simp

@[simp] theorem State.ledger_raiseBeforeUnits (e : ErrorCode) :
    (s.raiseBeforeUnits e).ledger exact = s.ledger exact := by
  unfold State.raiseBeforeUnits
  split
  · exact s.ledger_spoilBuffer _ ‹_›
  · rfl

@[simp] theorem State.ledger_loopTest : s.loopTest.ledger exact = s.ledger exact := by
  unfold State.loopTest
  split <;> rfl

@[simp] theorem State.ledger_firstUnit : s.firstUnit.ledger exact = s.ledger exact :=
  State.ledger_loopTest { s with eng := { s.eng with unit := 0 } }

theorem State.ledger_unitFrame {tx : List Byte} (htx : tx.head? ≠ some opcWrsr) (next : Pc) :
    (s.unitFrame tx next).ledger exact = s.ledger exact := by
  have hsend := s.ledger_send (exact := exact) (fun _ => htx) 0
  simp only [State.unitFrame]
  split <;> simpa using hsend

theorem State.ledger_poll (polling : Pc) {onError : State → State}
    (he : ∀ t : State, (onError t).ledger exact = t.ledger exact) :
    (s.poll polling onError).ledger exact = s.ledger exact := by
  have hsend := s.ledger_send (exact := exact) (tx := [opcRdsr, statusReg]) (fun _ => by decide) 1
  simp only [State.poll]
  split
  · rw [he, hsend]
  · exact hsend

@[simp] theorem State.ledger_pollUnit (polling : Pc) : (s.pollUnit polling).ledger exact = s.ledger exact :=
  s.ledger_poll polling fun t => t.ledger_abortUnit _

@[simp] theorem State.ledger_pollRecover : s.pollRecover.ledger exact = s.ledger exact :=
  s.ledger_poll .recover fun t => t.ledger_raiseBeforeUnits _

theorem State.ledger_seqBusy (polling : Pc) {settled failed : State → State}
    (hs : (settled s).ledger exact = s.ledger exact) (hf : (failed s).ledger exact = s.ledger exact) :
    (s.seqBusy polling settled failed).ledger exact = s.ledger exact := by
  unfold State.seqBusy
  split
  · exact hs
  · exact hf
  · simp
  · simp

end

/-! #### The sequencer -/

/-- The sequencer state belongs to the operation in OP: it is one of the states behind that operation's unit
boundary, or of no operation (R24). -/
def State.InItsOperation (s : State) : Prop :=
  s.eng.pc.operation = none ∨ s.eng.pc.operation = (unitBoundaryOf s.eng.op).operation

section
variable {s : State}

/-- In a state of WRITE's units, OP is WRITE. -/
theorem State.InItsOperation.op_eq_write (h : s.InItsOperation) (hp : s.eng.pc.operation = some hostWrite) :
    s.eng.op = hostWrite := by
  unfold State.InItsOperation unitBoundaryOf at h
  rw [hp] at h
  by_contra hne
  rw [if_neg hne] at h
  split at h <;> simp [Pc.operation, hostWrite, hostErase, hostRead] at h

/-- In a state of READ's units, OP is neither ERASE nor WRITE. -/
theorem State.InItsOperation.op_of_read (h : s.InItsOperation) (hp : s.eng.pc.operation = some hostRead) :
    s.eng.op ≠ hostErase ∧ s.eng.op ≠ hostWrite := by
  unfold State.InItsOperation unitBoundaryOf at h
  rw [hp] at h
  constructor
  · intro he
    simp [he, Pc.operation, hostRead, hostErase] at h
  · intro hw
    simp [hw, Pc.operation, hostRead, hostErase, hostWrite] at h

end

section
variable {exact : Bool} {s : State}

/-- The registers of a read slice are not in the ledger where OP is neither ERASE nor WRITE. -/
theorem State.ledger_loadSlice (hop : exact = true → s.eng.op ≠ hostErase ∧ s.eng.op ≠ hostWrite) :
    s.loadSlice.ledger exact = s.ledger exact := by
  have hexact := not_exact_of_op hop
  have hdst : ¬ (exact = true ∧ s.eng.op = hostErase) := fun h => (hop h.1).1 h.2
  simp [State.ledger, State.otherBuffers, hexact, hdst]

theorem State.ledger_seqRecover (s : State) : s.seqRecover.ledger exact = s.ledger exact := by
  unfold State.seqRecover
  split
  · simp
  · split
    · exact State.ledger_firstUnit _
    · exact State.ledger_firstUnit _
    · simp
    · simp

theorem State.ledger_seqBringup (s : State) (hx : exact = false) : s.seqBringup.ledger exact = s.ledger exact := by
  have hsend := s.ledger_send (exact := exact) (tx := [opcWrsr, protectReg, 0x00]) (by simp [hx]) 0
  simp only [State.seqBringup]
  split <;> simpa using hsend

theorem State.ledger_seqEUnit (s : State) : s.seqEUnit.ledger exact = s.ledger exact := by
  unfold State.seqEUnit
  split
  · simp
  · exact State.ledger_unitFrame _ (by decide) _

theorem State.ledger_seqPUnit (hop : exact = true → s.eng.op = hostWrite) :
    s.seqPUnit.ledger exact = s.ledger exact := by
  have hdst : ¬ (exact = true ∧ s.eng.op = hostErase) := by
    rintro ⟨hx, he⟩
    rw [hop hx] at he
    exact absurd he (by decide)
  unfold State.seqPUnit
  split
  · simp
  · rw [State.ledger_unitFrame _ (by decide)]
    simp [State.ledger, State.otherBuffers, hdst]

theorem State.ledger_seqRUnit (hop : exact = true → s.eng.op ≠ hostErase ∧ s.eng.op ≠ hostWrite) :
    s.seqRUnit.ledger exact = s.ledger exact := by
  unfold State.seqRUnit
  split
  · simp
  · exact (State.ledger_unitFrame _ (by simp [pageFrame, opcPrdc, opcWrsr]) _).trans (State.ledger_loadSlice hop)

theorem State.ledger_seqPWel {t : State} (h : s.seqPWel = .next t) : t.ledger exact = s.ledger exact := by
  unfold State.seqPWel at h
  split at h
  · cases h
  · cases h; exact s.ledger_unitFrame (by simp [opcPld, opcWrsr]) _

theorem State.ledger_seqRReady {t : State} (hop : exact = true → s.eng.op ≠ hostErase ∧ s.eng.op ≠ hostWrite)
    (h : s.seqRReady = .next t) : t.ledger exact = s.ledger exact := by
  have hsend := s.ledger_send (exact := exact) (tx := readCacheFrame s.eng.col)
    (by simp [readCacheFrame, opcRdc, opcWrsr]) s.eng.slen
  simp only [State.seqRReady] at h
  split at h
  · cases h; simpa using hsend
  · split at h
    · cases h
    · rename_i u hu
      cases h
      rw [State.ledger_loopTest]
      exact (State.ledger_memWrite _ hu (by simpa using hop)).trans hsend

theorem State.ledger_seqFailed (s : State) : s.seqFailed.ledger exact = s.ledger exact := by
  unfold State.seqFailed
  split <;> rfl

theorem State.ledger_seqWrdi (s : State) : s.seqWrdi.ledger exact = s.ledger exact := by
  have hsend := s.ledger_send (exact := exact) (tx := [opcWrdi]) (fun _ => by decide) 0
  simp only [State.seqWrdi]
  split
  · exact hsend
  · exact hsend

/-- No move of the sequencer changes the ledger, one case for each value of `pc` (R24). BP and what OP's own units leave
alone need a sequencer state of OP's operation. -/
theorem State.ledger_seq {t : State} (hx : exact = true → s.InItsOperation ∧ s.eng.pc ≠ .bringup)
    (h : s.seq = .next t) : t.ledger exact = s.ledger exact := by
  have hread (hp : s.eng.pc.operation = some hostRead) :
      exact = true → s.eng.op ≠ hostErase ∧ s.eng.op ≠ hostWrite := fun he => (hx he).1.op_of_read hp
  cases hp : s.eng.pc <;> simp only [State.seq, hp, Host.Outcome.next.injEq] at h
  case pWel => exact State.ledger_seqPWel h
  case rReady => exact State.ledger_seqRReady (hread (by rw [hp]; rfl)) h
  all_goals subst h
  case bringup => exact s.ledger_seqBringup (by cases exact with | false => rfl | true => exact absurd hp (hx rfl).2)
  case idle => rfl
  case dead => rfl
  case recover => exact s.ledger_seqRecover
  case eUnit => exact s.ledger_seqEUnit
  case eWel => exact s.ledger_unitFrame (by simp [pageFrame, opcBers, opcWrsr]) _
  case eCmd => exact State.ledger_pollUnit (s.startAwait efailMask) _
  case eBusy => exact s.ledger_seqBusy _ rfl rfl
  case eReady => exact s.ledger_loopTest
  case eFailed => exact s.ledger_seqFailed
  case pUnit => exact State.ledger_seqPUnit fun he => (hx he).1.op_eq_write (by rw [hp]; rfl)
  case pLoaded => exact s.ledger_unitFrame (by simp [pageFrame, opcPex, opcWrsr]) _
  case pCmd => exact State.ledger_pollUnit (s.startAwait pfailMask) _
  case pBusy => exact s.ledger_seqBusy _ rfl rfl
  case pReady => exact s.ledger_loopTest
  case pFailed => exact s.ledger_seqFailed
  case rUnit => exact State.ledger_seqRUnit (hread (by rw [hp]; rfl))
  case rPageLoaded => exact State.ledger_pollUnit (s.startAwait noMask) _
  case rBusy => exact s.ledger_seqBusy _ rfl rfl
  case wrdi => exact s.ledger_seqWrdi
  case respond => rfl

end

end Sys2Proof.Machine
end

/-! ### What a transition does to the control flow

`State.Flow` says once what one move of the sequencer can do to `pc`, UNIT, POLLS, RESULT and the number of frames sent.
The statements on cancellation, on the frames of a request and on its end are case analyses of it. -/

section
namespace Sys2Proof.Machine

/-- The number of frames in the trace. -/
def State.frameCount (s : State) : Nat := (framesOf s.trace).length

/-- The transitions of a unit that send a frame and wait for nothing: from which state to which (R222, R242, R262). -/
def unitFrameEdges : List (Pc × Pc) :=
  [(.eUnit, .eWel), (.eWel, .eCmd), (.pUnit, .pWel), (.pWel, .pLoaded), (.pLoaded, .pCmd), (.rUnit, .rPageLoaded)]

/-- The transitions of a unit that begin its await (R171). -/
def awaitEdges : List (Pc × Pc) := [(.eCmd, .eBusy), (.pCmd, .pBusy), (.rPageLoaded, .rBusy)]

/-- The sequencer states that read the status again and again (R172). -/
def pollingStates : List Pc := [.eBusy, .pBusy, .rBusy, .recover]

/-- The transitions of a settled erase or program unit. -/
def readyEdges : List (Pc × Pc) := [(.eBusy, .eReady), (.pBusy, .pReady)]

/-- The transitions of a settled unit that leave UNIT: a failed unit, and a read slice that is ready. -/
def settledEdges : List (Pc × Pc) := [(.eBusy, .eFailed), (.pBusy, .pFailed), (.rBusy, .rReady)]

/-- All transitions within a unit. -/
def unitEdges : List (Pc × Pc) := unitFrameEdges ++ awaitEdges ++ readyEdges ++ settledEdges

theorem unitFrameEdges_subset : unitFrameEdges ⊆ unitEdges := by decide

theorem awaitEdges_subset : awaitEdges ⊆ unitEdges := by decide

theorem readyEdges_subset : readyEdges ⊆ unitEdges := by decide

theorem settledEdges_subset : settledEdges ⊆ unitEdges := by decide

/-- The sequencer stands behind the test of the unit loop: at the boundary of a unit of the plan, or at the response. -/
def State.AtLoop (s : State) : Prop :=
  (s.eng.unit < s.eng.nunits ∧ s.eng.pc = unitBoundaryOf s.eng.op) ∨ s.eng.pc = .respond

/-- Behind that test there is no other state. -/
theorem State.AtLoop.pc_mem {s : State} (h : s.AtLoop) : s.eng.pc ∈ [Pc.eUnit, .pUnit, .rUnit, .respond] := by
  rcases h with ⟨-, hp⟩ | hp
  · rw [hp, unitBoundaryOf]
    split_ifs <;> decide
  · rw [hp]
    decide

/-- What one move of the sequencer does to the control flow. -/
inductive State.Flow (s t : State) : Prop where
  /-- no request is in flight: only bring-up moves, and only `pc` -/
  | rests (out : s.eng.pc.inFlight = false) (eng : t.eng = { s.eng with pc := t.eng.pc })
  /-- a frame of a unit was sent -/
  | sends (edge : (s.eng.pc, t.eng.pc) ∈ unitFrameEdges) (unit : t.eng.unit = s.eng.unit)
      (result : t.eng.result = s.eng.result) (sent : t.frameCount = s.frameCount + 1)
  /-- the first status read of a unit's await -/
  | awaits (edge : (s.eng.pc, t.eng.pc) ∈ awaitEdges) (unit : t.eng.unit = s.eng.unit) (polls : t.eng.polls = 1)
      (result : t.eng.result = s.eng.result) (sent : t.frameCount = s.frameCount + 1)
  /-- a status read of an await that goes on -/
  | polls (polling : s.eng.pc ∈ pollingStates) (pc : t.eng.pc = s.eng.pc) (unit : t.eng.unit = s.eng.unit)
      (more : s.eng.polls = 0 ∨ s.eng.polls ≠ s.cfg.pollLimit) (polls : t.eng.polls = s.eng.polls + 1)
      (result : t.eng.result = s.eng.result) (sent : t.frameCount = s.frameCount + 1)
  /-- an erase or program unit is done -/
  | readies (edge : (s.eng.pc, t.eng.pc) ∈ readyEdges) (unit : t.eng.unit = s.eng.unit + 1)
      (result : t.eng.result = s.eng.result) (sent : t.frameCount = s.frameCount)
  /-- a unit has failed, or a slice is ready to be read -/
  | settles (edge : (s.eng.pc, t.eng.pc) ∈ settledEdges) (unit : t.eng.unit = s.eng.unit)
      (result : t.eng.result = s.eng.result) (sent : t.frameCount = s.frameCount)
  /-- the unit loop goes on behind an erase or program unit -/
  | loops (ready : s.eng.pc = .eReady ∨ s.eng.pc = .pReady) (unit : t.eng.unit = s.eng.unit) (loop : t.AtLoop)
      (result : t.eng.result = s.eng.result) (sent : t.frameCount = s.frameCount)
  /-- a slice was read, and the unit loop goes on -/
  | reads (ready : s.eng.pc = .rReady) (unit : t.eng.unit = s.eng.unit + 1) (loop : t.AtLoop)
      (result : t.eng.result = s.eng.result) (sent : t.frameCount = s.frameCount + 1)
  /-- the recovery await is over, and the unit loop begins -/
  | recovers (recover : s.eng.pc = .recover) (unit : t.eng.unit = 0) (loop : t.AtLoop)
      (result : t.eng.result = s.eng.result) (sent : t.frameCount = s.frameCount)
  /-- a failed unit is followed by WRDI -/
  | disables (failed : s.eng.pc = .eFailed ∨ s.eng.pc = .pFailed) (pc : t.eng.pc = .wrdi)
      (result : t.eng.result = s.eng.result) (sent : t.frameCount = s.frameCount)
  /-- the request ends in an error with a frame -/
  | breaks (running : s.eng.pc.inFlight = true ∧ s.eng.pc ≠ .respond) (pc : t.eng.pc = .respond)
      (result : t.eng.result ≠ .cancelled) (sent : t.frameCount = s.frameCount + 1)
  /-- the request ends in an error without a frame -/
  | givesUp (place : s.eng.pc ∈ Pc.eFailed :: Pc.pFailed :: pollingStates) (pc : t.eng.pc = .respond)
      (result : t.eng.result ≠ .cancelled) (sent : t.frameCount = s.frameCount)
  /-- the request is cancelled at a unit boundary -/
  | cancels (boundary : s.eng.pc.unitBoundary = true) (cancel : s.eng.cancel = true) (pc : t.eng.pc = .respond)
      (sent : t.frameCount = s.frameCount)
  /-- the response is driven -/
  | responds (pc : s.eng.pc = .respond) (result : t = s.respond)

section
variable {s t : State}

theorem State.frameCount_eq_of_trace (h : t.trace = s.trace) : t.frameCount = s.frameCount := by
  simp [State.frameCount, h]

theorem State.frameCount_succ_of_trace {tx : List Byte} {rx : Nat} (h : t.trace = s.trace ++ [.frame tx rx]) :
    t.frameCount = s.frameCount + 1 := by
  simp [State.frameCount, framesOf, h]

@[simp] theorem State.frameCount_wait : s.wait.frameCount = s.frameCount := by
  simp [State.frameCount, framesOf]

@[simp] theorem State.frameCount_send (tx : List Byte) (rx : Nat) :
    (s.send tx rx).frameCount = s.frameCount + 1 := State.frameCount_succ_of_trace (s.send_trace tx rx)

theorem State.raiseCancelled_eng : s.raiseCancelled.eng = (s.raise .cancelled).eng := by
  unfold State.raiseCancelled
  split <;> simp [s.spoilUnit_rest.2.1]

theorem State.raiseBeforeUnits_eng (e : ErrorCode) : (s.raiseBeforeUnits e).eng = (s.raise e).eng := by
  unfold State.raiseBeforeUnits
  split <;> simp [(s.spoilBuffer_rest 0).2.1]

/-- The test of the unit loop keeps UNIT and RESULT. -/
theorem State.loopTest_eng :
    s.loopTest.AtLoop ∧ s.loopTest.eng.unit = s.eng.unit ∧ s.loopTest.eng.result = s.eng.result := by
  unfold State.loopTest
  split
  · exact ⟨.inl ⟨‹_›, rfl⟩, rfl, rfl⟩
  · exact ⟨.inr rfl, rfl, rfl⟩

/-- The memory write of a read slice keeps the registers. -/
theorem State.memWrite_eng {i : Nat} {v : List Byte} (h : s.memWrite i v = some t) : t.eng = s.eng := by
  unfold State.memWrite at h
  split at h
  · cases h
  · split at h
    · cases h; exact (s.setBuffer_rest _).2.1
    · cases h

/-- An await asks for one more read only before the limit (R172). -/
theorem polls_ne_of_settle_again {e : Engine} {limit : Nat} (h : settle e limit = .again) : e.polls ≠ limit := by
  unfold settle at h
  split_ifs at h
  assumption

/-- A status read was sent: it ended the request in an error, or counts and leads to the polling state. -/
def State.Polled (s : State) (polling : Pc) (t : State) : Prop :=
  t.frameCount = s.frameCount + 1 ∧
    (t.eng = (s.raise .transportError).eng ∨
      ∃ status, t.eng = { s.eng with status := status, polls := s.eng.polls + 1, pc := polling })

/-- A `Wait` before a status read is no frame and changes no register. -/
theorem State.Polled.of_wait {polling : Pc} (h : s.wait.Polled polling t) : s.Polled polling t := by
  simpa [State.Polled] using h

theorem State.poll_polled (s : State) (polling : Pc) {onError : State → State}
    (he : ∀ u : State, (onError u).eng = (u.raise .transportError).eng ∧ (onError u).trace = u.trace) :
    s.Polled polling (s.poll polling onError) := by
  obtain ⟨u, hu, -, ⟨-, hp⟩ | ⟨b, -, hp⟩⟩ := s.poll_spec polling onError
  · obtain ⟨heng, htrace⟩ := he u
    rw [hp, State.Polled, heng]
    exact ⟨State.frameCount_succ_of_trace (htrace.trans hu.trace), .inl (by simp [hu.eng])⟩
  · rw [hp]
    exact ⟨State.frameCount_succ_of_trace hu.trace, .inr ⟨b, by simp [hu.eng]⟩⟩

theorem State.pollUnit_polled (s : State) (polling : Pc) : s.Polled polling (s.pollUnit polling) :=
  s.poll_polled polling fun u => ⟨u.abortUnit_eng _, u.abortUnit_trace _⟩

theorem State.pollRecover_polled (s : State) : s.Polled .recover s.pollRecover :=
  s.poll_polled .recover fun u => ⟨u.raiseBeforeUnits_eng _, u.raiseBeforeUnits_trace _⟩

/-- The unit loop begins with UNIT = 0. -/
theorem State.firstUnit_eng :
    s.firstUnit.AtLoop ∧ s.firstUnit.eng.unit = 0 ∧ s.firstUnit.eng.result = s.eng.result :=
  State.loopTest_eng (s := { s with eng := { s.eng with unit := 0 } })

namespace State.Flow

/-- A frame of a unit, from a state that differs in the unit's own registers only. -/
theorem unitFrame {u : State} {tx : List Byte} {next : Pc} (edge : (s.eng.pc, next) ∈ unitFrameEdges)
    (unit : u.eng.unit = s.eng.unit) (result : u.eng.result = s.eng.result) (trace : u.trace = s.trace) :
    s.Flow (u.unitFrame tx next) := by
  obtain ⟨htrace, hok, herr⟩ := u.unitFrame_spec tx next
  have hsent : (u.unitFrame tx next).frameCount = s.frameCount + 1 :=
    State.frameCount_succ_of_trace (by rw [htrace, trace])
  have hrunning : ∀ e ∈ unitFrameEdges, e.1.inFlight = true ∧ e.1 ≠ .respond := by decide
  by_cases hr : (u.unitFrame tx next).reply = .transportError
  · exact .breaks (hrunning _ edge) (by rw [herr hr]; rfl) (by rw [herr hr]; simp) hsent
  · exact .sends (by rw [hok hr]; exact edge) (by rw [hok hr]; exact unit) (by rw [hok hr]; exact result) hsent

/-- The first status read of a unit. -/
theorem awaitUnit (mask : Byte) {polling : Pc} (edge : (s.eng.pc, polling) ∈ awaitEdges) :
    s.Flow ((s.startAwait mask).pollUnit polling) := by
  obtain ⟨hsent, heng | ⟨status, heng⟩⟩ := (s.startAwait mask).pollUnit_polled polling
  · have hrunning : ∀ e ∈ awaitEdges, e.1.inFlight = true ∧ e.1 ≠ .respond := by decide
    exact .breaks (hrunning _ edge) (by rw [heng]; rfl) (by rw [heng]; simp) hsent
  · exact .awaits (by rw [heng]; exact edge) (by rw [heng]; rfl) (by rw [heng]; rfl) (by rw [heng]; rfl) hsent

/-- A later status read of a unit, and every one of the recovery await. -/
theorem pollAgain {u : State} (polling : s.eng.pc ∈ pollingStates)
    (more : s.eng.polls = 0 ∨ s.eng.polls ≠ s.cfg.pollLimit) (h : s.Polled s.eng.pc u) : s.Flow u := by
  obtain ⟨hsent, heng | ⟨status, heng⟩⟩ := h
  · have hrunning : ∀ p ∈ pollingStates, p.inFlight = true ∧ p ≠ .respond := by decide
    exact .breaks (hrunning _ polling) (by rw [heng]; rfl) (by rw [heng]; simp) hsent
  · exact .polls polling (by rw [heng]) (by rw [heng]) more (by rw [heng]) (by rw [heng]) hsent

/-- The polling state of a unit. -/
theorem seqBusy {polling : Pc} {settled failed : State → State} (hp : s.eng.pc = polling)
    (hmem : polling ∈ pollingStates) (hs : s.Flow (settled s)) (hf : s.Flow (failed s)) :
    s.Flow (s.seqBusy polling settled failed) := by
  subst hp
  unfold State.seqBusy
  split
  · exact hs
  · exact hf
  · exact .givesUp (by simp [hmem]) (by simp) (by simp) (State.frameCount_eq_of_trace (s.abortUnit_trace _))
  · rename_i hagain
    exact pollAgain hmem (.inr (polls_ne_of_settle_again hagain)) (s.wait.pollUnit_polled s.eng.pc).of_wait

/-- A failed unit. -/
theorem seqFailed (hp : s.eng.pc = .eFailed ∨ s.eng.pc = .pFailed) : s.Flow s.seqFailed := by
  unfold State.seqFailed
  split
  · exact .disables hp rfl rfl rfl
  · exact .givesUp (by rcases hp with h | h <;> simp [h]) rfl (by simp) rfl

/-- A transition to the test of the unit loop, behind an erase or program unit. -/
theorem loopTest (hp : s.eng.pc = .eReady ∨ s.eng.pc = .pReady) : s.Flow s.loopTest := by
  obtain ⟨hloop, hunit, hresult⟩ := s.loopTest_eng
  exact .loops hp hunit hloop hresult (State.frameCount_eq_of_trace s.loopTest_trace)

/-- The unit loop begins behind the recovery await. -/
theorem firstUnit (hp : s.eng.pc = .recover) {u : State} (hresult : u.eng.result = s.eng.result)
    (htrace : u.trace = s.trace) : s.Flow u.firstUnit := by
  obtain ⟨hloop, hunit, hres⟩ := State.firstUnit_eng (s := u)
  exact .recovers hp hunit hloop (hres.trans hresult)
    (State.frameCount_eq_of_trace ((State.loopTest_trace _).trans htrace))

theorem seqRecover (hp : s.eng.pc = .recover) : s.Flow s.seqRecover := by
  have hmem : s.eng.pc ∈ pollingStates := by rw [hp]; decide
  unfold State.seqRecover
  split
  · rename_i hzero
    exact pollAgain hmem (.inl hzero) (hp ▸ s.pollRecover_polled)
  · split
    · exact firstUnit hp rfl rfl
    · exact firstUnit hp rfl rfl
    · exact .givesUp (by simp [hp, pollingStates]) (by simp [State.raiseBeforeUnits_eng])
        (by simp [State.raiseBeforeUnits_eng]) (State.frameCount_eq_of_trace (s.raiseBeforeUnits_trace _))
    · rename_i hagain
      exact pollAgain hmem (.inr (polls_ne_of_settle_again hagain)) (hp ▸ s.wait.pollRecover_polled.of_wait)

theorem raiseCancelled (hp : s.eng.pc.unitBoundary = true) (hc : s.eng.cancel = true) : s.Flow s.raiseCancelled :=
  .cancels hp hc (by rw [State.raiseCancelled_eng]; rfl) (State.frameCount_eq_of_trace s.raiseCancelled_trace)

theorem seqEUnit (hp : s.eng.pc = .eUnit) : s.Flow s.seqEUnit := by
  unfold State.seqEUnit
  split
  · exact raiseCancelled (by rw [hp]; rfl) ‹_›
  · exact unitFrame (by rw [hp]; decide) rfl rfl rfl

theorem seqPUnit (hp : s.eng.pc = .pUnit) : s.Flow s.seqPUnit := by
  unfold State.seqPUnit
  split
  · exact raiseCancelled (by rw [hp]; rfl) ‹_›
  · exact unitFrame (by rw [hp]; decide) rfl rfl rfl

theorem seqRUnit (hp : s.eng.pc = .rUnit) : s.Flow s.seqRUnit := by
  unfold State.seqRUnit
  split
  · exact raiseCancelled (by rw [hp]; rfl) ‹_›
  · exact unitFrame (u := s.loadSlice) (by rw [hp]; decide) rfl rfl rfl

theorem seqPWel (hp : s.eng.pc = .pWel) (h : s.seqPWel = .next t) : s.Flow t := by
  unfold State.seqPWel at h
  split at h
  · cases h
  · cases h; exact unitFrame (by rw [hp]; decide) rfl rfl rfl

theorem seqRReady (hp : s.eng.pc = .rReady) (h : s.seqRReady = .next t) : s.Flow t := by
  simp only [State.seqRReady] at h
  split at h
  · cases h
    exact .breaks (by rw [hp]; decide) (by simp) (by simp)
      (State.frameCount_succ_of_trace ((State.abortUnit_trace _ _).trans (s.send_trace _ _)))
  · split at h
    · cases h
    · rename_i u hu
      cases h
      obtain ⟨hloop, hunit, hresult⟩ :=
        State.loopTest_eng (s := { u with eng := { u.eng with unit := u.eng.unit + 1 } })
      have hueng : u.eng = s.eng := by simpa using State.memWrite_eng hu
      refine .reads hp (hunit.trans (by simp [hueng])) hloop (hresult.trans (by simp [hueng])) ?_
      exact State.frameCount_succ_of_trace
        ((State.loopTest_trace _).trans ((State.memWrite_trace _ hu).trans (s.send_trace _ _)))

theorem seqWrdi (hp : s.eng.pc = .wrdi) : s.Flow s.seqWrdi := by
  simp only [State.seqWrdi]
  split
  · exact .breaks (by rw [hp]; decide) rfl (by simp) (State.frameCount_send _ _)
  · exact .breaks (by rw [hp]; decide) rfl (by simp) (State.frameCount_send _ _)

theorem seqBringup (hp : s.eng.pc = .bringup) : s.Flow s.seqBringup := by
  simp only [State.seqBringup]
  split
  · exact .rests (by rw [hp]; rfl) (by simp)
  · exact .rests (by rw [hp]; rfl) (by simp)

end State.Flow

/-- Every move of the sequencer is one of the moves of the control flow, one case for each value of `pc` (R24). -/
theorem State.flow_of_seq (h : s.seq = .next t) : s.Flow t := by
  cases hp : s.eng.pc <;> simp only [State.seq, hp, Host.Outcome.next.injEq] at h
  case pWel => exact .seqPWel hp h
  case rReady => exact .seqRReady hp h
  all_goals subst h
  case bringup => exact .seqBringup hp
  case idle => exact .rests (by rw [hp]; rfl) rfl
  case dead => exact .rests (by rw [hp]; rfl) rfl
  case recover => exact .seqRecover hp
  case eUnit => exact .seqEUnit hp
  case eWel => exact .unitFrame (by rw [hp]; decide) rfl rfl rfl
  case eCmd => exact .awaitUnit _ (by rw [hp]; decide)
  case eBusy =>
    exact .seqBusy hp (by decide) (.readies (by simp [hp, readyEdges]) rfl rfl rfl)
      (.settles (by simp [hp, settledEdges]) rfl rfl rfl)
  case eReady => exact .loopTest (.inl hp)
  case eFailed => exact .seqFailed (.inl hp)
  case pUnit => exact .seqPUnit hp
  case pLoaded => exact .unitFrame (by rw [hp]; decide) rfl rfl rfl
  case pCmd => exact .awaitUnit _ (by rw [hp]; decide)
  case pBusy =>
    exact .seqBusy hp (by decide) (.readies (by simp [hp, readyEdges]) rfl rfl rfl)
      (.settles (by simp [hp, settledEdges]) rfl rfl rfl)
  case pReady => exact .loopTest (.inr hp)
  case pFailed => exact .seqFailed (.inr hp)
  case rUnit => exact .seqRUnit hp
  case rPageLoaded => exact .awaitUnit _ (by rw [hp]; decide)
  case rBusy =>
    exact .seqBusy hp (by decide) (.settles (by simp [hp, settledEdges]) rfl rfl rfl)
      (.settles (by simp [hp, settledEdges]) rfl rfl rfl)
  case wrdi => exact .seqWrdi hp
  case respond => exact .responds hp rfl

end

end Sys2Proof.Machine
end

/-! ### Cancellation -/

section
namespace Sys2Proof.Machine

section
variable {s t : State}

/-- The host's move, and CANCEL if it is a cancel, are all that a transition takes from the host. -/
theorem State.takeMove_cancel_iff : s.takeMove.eng.cancel = true ↔
    s.eng.cancel = true ∨ (s.eng.pc.inFlight = true ∧ s.host.moves.head? = some .cancel) := by
  simp

/-- The sequencer keeps CANCEL and the host's moves. -/
theorem State.seq_inputs (h : s.seq = .next t) : t.eng.cancel = s.eng.cancel ∧ t.host.moves = s.host.moves := by
  have hledger := State.ledger_seq (exact := false) (by simp) h
  exact ⟨congrArg Ledger.cancel hledger, congrArg Ledger.moves hledger⟩

/-- A unit boundary is in flight. -/
theorem Pc.inFlight_of_unitBoundary {p : Pc} (h : p.unitBoundary = true) : p.inFlight = true := by
  cases p <;> simp_all [Pc.unitBoundary, Pc.inFlight]

theorem Pc.unitBoundary_iff {p : Pc} : p.unitBoundary = true ↔ p = .eUnit ∨ p = .pUnit ∨ p = .rUnit := by
  cases p <;> simp [Pc.unitBoundary]

/-- At a unit boundary with CANCEL set the request is cancelled (R306). -/
theorem State.seq_of_cancel (hp : s.eng.pc.unitBoundary = true) (hc : s.eng.cancel = true) :
    s.seq = .next s.raiseCancelled := by
  rcases Pc.unitBoundary_iff.1 hp with h | h | h <;>
    simp [State.seq, State.seqEUnit, State.seqPUnit, State.seqRUnit, h, hc]

/-- CANCELLED touches no byte of the device: a READ spoils its buffer only (R264). -/
theorem State.raiseCancelled_dev : s.raiseCancelled.dev = s.dev := by
  unfold State.raiseCancelled
  split
  · rename_i hop
    obtain ⟨he, hw⟩ := ne_erase_write_of_read hop
    simp [State.spoilUnit, hop, hostRead, hostErase, hostWrite, (s.spoilBuffer_rest _).2.2.1]
  · rfl

/-- RESULT becomes CANCELLED only at a unit boundary with CANCEL set. -/
theorem State.Flow.cancelled_only (h : s.Flow t) (hs : s.eng.result ≠ .cancelled) (ht : t.eng.result = .cancelled) :
    s.eng.pc.unitBoundary = true ∧ s.eng.cancel = true := by
  cases h with
  | cancels boundary cancel _ _ => exact ⟨boundary, cancel⟩
  | rests _ eng => rw [eng] at ht; exact absurd ht hs
  | responds _ result => rw [result] at ht; exact absurd ht hs
  | breaks _ _ result _ => exact absurd ht result
  | givesUp _ _ result _ => exact absurd ht result
  | sends _ _ result | awaits _ _ _ result | polls _ _ _ _ _ result | readies _ _ result | settles _ _ result
  | loops _ _ _ result | reads _ _ _ result | recovers _ _ _ result | disables _ _ result =>
    exact absurd (result.symm.trans ht) hs

/-- RESULT becomes CANCELLED only in a transition from a unit boundary with a cancel taken. -/
theorem State.transition_cancelled_only (h : s.transition = .next t) (hs : s.eng.result ≠ .cancelled)
    (ht : t.eng.result = .cancelled) :
    s.eng.pc.unitBoundary = true ∧ s.resetNow = false ∧ s.takeMove.eng.cancel = true := by
  cases hr : s.resetNow with
  | true =>
    rw [State.transition, if_pos hr] at h
    cases h
    cases ht
  | false =>
    rw [State.transition_of_no_reset s hr] at h
    obtain ⟨hp, hc⟩ := (State.flow_of_seq h).cancelled_only hs ht
    exact ⟨hp, rfl, hc⟩

end
end Sys2Proof.Machine
end

/-! ### How a request begins

A host operation is one record, and the meaning of every one is its acceptance, then `State.dispatch`, then the run to
the response. -/

section
namespace Sys2Proof.Machine

/-- The accepted request is answered at once, or its plan is laid (R283, R284, R285). -/
def State.dispatch (s : State) : State :=
  if s.eng.op = hostGeometry then s.finish 0 else s.handle s.checksPass s.plannedUnits

/-- NUNITS of the plan stands in its register. -/
def State.withPlan (s : State) : State := { s with eng := { s.eng with nunits := s.plannedUnits } }

/-- How the run of an accepted request begins. -/
inductive State.Begins (s u : State) : Prop where
  /-- with the answer: a GEOMETRY, a failed check, length 0, or a request to a DEAD engine -/
  | answers (result : u = s.finish 0 ∨ u = s.raise .invalidArgument ∨ u = s.raiseBeforeUnits .transportError)
  /-- with the recovery await -/
  | recovers (planned : s.withPlan.Planned) (alive : s.eng.wasDead = false) (result : u = s.withPlan.enterRecover)
  /-- with the unit loop -/
  | loops (planned : s.withPlan.Planned) (alive : s.eng.wasDead = false) (result : u = s.withPlan.firstUnit)

theorem State.dispatch_begins (s : State) : s.Begins s.dispatch := by
  unfold State.dispatch State.handle
  split_ifs with hg hc hl hd
  · exact .answers (.inl rfl)
  · exact .answers (.inr (.inl rfl))
  · exact .answers (.inl rfl)
  · exact .answers (.inr (.inr rfl))
  · have hplanned : s.withPlan.Planned := ⟨(Bool.not_eq_false _).mp hc, Nat.pos_of_ne_zero hl, rfl⟩
    simp only [State.startUnits]
    split
    · exact .recovers hplanned ((Bool.not_eq_true _).mp hd) rfl
    · exact .loops hplanned ((Bool.not_eq_true _).mp hd) rfl

section
variable {s : State}

theorem State.dispatch_of_geometry (h : s.eng.op = hostGeometry) : s.dispatch = s.geometryOp := by
  simp [State.dispatch, h, State.geometryOp]

theorem State.dispatch_of_erase (h : s.eng.op = hostErase) : s.dispatch = s.eraseOp := by
  simp [State.dispatch, State.checksPass, State.plannedUnits, State.eraseOp, h, hostGeometry, hostErase, hostWrite]

theorem State.dispatch_of_read (h : s.eng.op = hostRead) : s.dispatch = s.readOp := by
  simp [State.dispatch, State.checksPass, State.plannedUnits, State.readOp, h, hostGeometry, hostErase, hostWrite,
    hostRead]

theorem State.dispatch_of_write (h : s.eng.op = hostWrite) : s.dispatch = s.writeOp := by
  simp [State.dispatch, State.checksPass, State.plannedUnits, State.writeOp, h, hostGeometry, hostErase, hostWrite]

/-- A request with a buffer runs where the host keeps its duty (R287 (b)). -/
theorem State.serveBuffered_of_ready {r : Request} {op : State → State} (hp : s.eng.pc.ready = true) :
    s.serveBuffered r op =
      if (s.accept r).bufferKept = false then .fault .bufferDuty else (op (s.accept r)).runRequest := by
  cases hb : (s.accept r).bufferKept <;> simp [State.serveBuffered, hp, hb]

/-- The meaning of every host operation on a READY engine (R281, R287 (b)). -/
theorem exec_of_record {i : Instr} {r : Request} (hi : encode i = .request r) (hp : s.eng.pc.ready = true) :
    exec i s = if (r.op = hostRead ∨ r.op = hostWrite) ∧ (s.accept r).bufferKept = false then .fault .bufferDuty
      else (s.accept r).dispatch.runRequest := by
  cases i with
  | geometry offset length buf =>
    cases hi
    rw [State.dispatch_of_geometry rfl, if_neg (by simp [hostGeometry, hostRead, hostWrite])]
    exact if_pos hp
  | erase offset length buf =>
    cases hi
    rw [State.dispatch_of_erase rfl, if_neg (by simp [hostErase, hostRead, hostWrite])]
    exact if_pos hp
  | read offset length buf =>
    cases hi
    rw [State.dispatch_of_read rfl]
    simpa [exec, execRead] using State.serveBuffered_of_ready hp
  | write offset length buf =>
    cases hi
    rw [State.dispatch_of_write rfl]
    simpa [exec, execWrite] using State.serveBuffered_of_ready hp
  | _ => cases hi

end

/-- Every host operation is carried by a record. -/
theorem encode_of_operation {i : Instr} (hi : i.isCommand = false) : ∃ r, encode i = .request r := by
  cases i with
  | geometry | erase | read | write => exact ⟨_, rfl⟩
  | _ => cases hi

/-- A host operation that answers a next state ran from its acceptance to its response. -/
theorem runRequest_of_exec {i : Instr} {r : Request} {s t : State} (hi : encode i = .request r)
    (hp : s.eng.pc.ready = true) (h : exec i s = .next t) : (s.accept r).dispatch.runRequest = .next t := by
  rw [exec_of_record hi hp] at h
  split at h
  · cases h
  · exact h

section
variable {s t : State}

/-! #### The state in which the run begins -/

theorem State.Begins.trace (h : s.Begins t) : t.trace = s.trace := by
  cases h with
  | answers result =>
    rcases result with rfl | rfl | rfl
    · rfl
    · rfl
    · exact s.raiseBeforeUnits_trace _
  | recovers _ _ result => rw [result]; rfl
  | loops _ _ result => rw [result]; exact State.loopTest_trace _

/-- A run begins at the response, in the recovery await before its first read, or behind the test of the unit loop. -/
theorem State.Begins.place (h : s.Begins t) :
    t.eng.pc = .respond ∨ (t.eng.pc = .recover ∧ t.eng.polls = 0) ∨ (t.AtLoop ∧ t.eng.unit = 0) := by
  cases h with
  | answers result =>
    rcases result with rfl | rfl | rfl
    · exact .inl rfl
    · exact .inl rfl
    · exact .inl (by rw [State.raiseBeforeUnits_eng]; rfl)
  | recovers _ _ result => rw [result]; exact .inr (.inl ⟨rfl, rfl⟩)
  | loops _ _ result =>
    obtain ⟨hloop, hunit, -⟩ := s.withPlan.firstUnit_eng
    rw [result]
    exact .inr (.inr ⟨hloop, hunit⟩)

/-- The beginning of a run lays the plan in NUNITS and leaves the rest of the ledger alone. -/
theorem State.Begins.ledger (h : s.Begins t) (exact : Bool) :
    t.ledger exact = { s.ledger exact with nunits := t.eng.nunits } := by
  cases h with
  | answers result =>
    rcases result with rfl | rfl | rfl
    · rfl
    · rfl
    · rw [State.ledger_raiseBeforeUnits, State.raiseBeforeUnits_eng]; rfl
  | recovers _ _ result => rw [result]; rfl
  | loops _ _ result =>
    have hledger : t.ledger exact = s.withPlan.ledger exact := by rw [result]; exact State.ledger_firstUnit _
    have hnunits : t.eng.nunits = s.plannedUnits := congrArg Ledger.nunits hledger
    rw [hledger, hnunits]; rfl

theorem State.Begins.result_ne_cancelled (h : s.Begins t) (hs : s.eng.result ≠ .cancelled) :
    t.eng.result ≠ .cancelled := by
  cases h with
  | answers result =>
    rcases result with rfl | rfl | rfl
    · exact hs
    · simp
    · simp [State.raiseBeforeUnits_eng]
  | recovers _ _ result => rw [result]; exact hs
  | loops _ _ result =>
    rw [result]
    obtain ⟨-, -, hresult⟩ := s.withPlan.firstUnit_eng
    rw [hresult]
    exact hs

/-! #### A request that the host lets run -/

/-- The host makes no move any more, and none has reached the request. -/
structure State.Undisturbed (s : State) : Prop where
  moves : ∀ m ∈ s.host.moves, m = .quiet
  cancel : s.eng.cancel = false
  result : s.eng.result ≠ .cancelled

/-- A host that moves no more gives no reset and no cancel. -/
theorem State.head_move_ne (h : ∀ m ∈ s.host.moves, m = .quiet) {m : HostMove} (hm : m ≠ .quiet) :
    s.host.moves.head? ≠ some m :=
  fun hhead => hm (h m (List.mem_of_head? hhead))

theorem State.Undisturbed.transition (hs : s.Undisturbed) (h : s.transition = .next t) : t.Undisturbed := by
  obtain ⟨hmoves, hcancel, hresult⟩ := hs
  have hr : s.resetNow = false := by simpa [State.resetNow] using State.head_move_ne hmoves (m := .reset) (by decide)
  have hc : s.takeMove.eng.cancel = false := by
    simp [hcancel, State.head_move_ne hmoves (m := .cancel) (by decide)]
  have hseq : s.takeMove.seq = .next t := by rwa [State.transition_of_no_reset s hr] at h
  obtain ⟨htc, htm⟩ := State.seq_inputs hseq
  refine ⟨fun m hm => hmoves m (List.mem_of_mem_tail (by simpa [htm] using hm)), htc.trans hc, fun ht => ?_⟩
  have hcancelled := (State.transition_cancelled_only h hresult ht).2.2
  rw [hc] at hcancelled
  cases hcancelled

theorem State.Undisturbed.runRequest (hs : s.Undisturbed) (h : s.runRequest = .next t) : t.Undisturbed :=
  runInFlight_induction (R := fun u v => u.Undisturbed → v.Undisturbed) (fun _ hu => hu)
    (fun _ _ _ _ hmove hrest hu => hrest (hu.transition hmove)) h hs

theorem State.Begins.undisturbed (h : s.Begins t) (hs : s.Undisturbed) : t.Undisturbed := by
  obtain ⟨hmoves, hcancel, hresult⟩ := hs
  have hledger := h.ledger false
  have htm : t.host.moves = s.host.moves := congrArg Ledger.moves hledger
  have htc : t.eng.cancel = s.eng.cancel := congrArg Ledger.cancel hledger
  exact ⟨htm ▸ hmoves, htc.trans hcancel, h.result_ne_cancelled hresult⟩

/-- Settles O34: the unit boundaries are the only states that read CANCEL, and every transition keeps it. -/
theorem cancelTakesEffectExactlyAtUnitBoundaries : Obligations.CancelTakesEffectExactlyAtUnitBoundaries := by
  refine ⟨fun s hp hr hc => ?_, fun s t h hs ht => ?_, fun s t hr h => ?_, fun s t i hi hp hm h => ?_⟩
  · have hboundary := Pc.unitBoundary_iff.2 hp
    have hcancel : s.takeMove.eng.cancel = true :=
      State.takeMove_cancel_iff.2 (hc.imp_right fun hmove => ⟨Pc.inFlight_of_unitBoundary hboundary, hmove⟩)
    refine ⟨s.takeMove.raiseCancelled, ?_, ?_⟩
    · rw [State.transition_of_no_reset s hr, State.seq_of_cancel (s := s.takeMove) hboundary hcancel]
    · simp [State.raiseCancelled_eng, State.raiseCancelled_trace, State.raiseCancelled_dev, ErrorCode.leavesBusy]
  · obtain ⟨hp, hr, hc⟩ := State.transition_cancelled_only h hs ht
    exact ⟨Pc.unitBoundary_iff.1 hp, hr, (State.takeMove_cancel_iff.1 hc).imp_right And.right⟩
  · rw [State.transition_of_no_reset s hr] at h
    rw [(State.seq_inputs h).1, State.takeMove_cancel_iff]
  · obtain ⟨r, hr⟩ := encode_of_operation hi
    have haccepted : (s.accept r).Undisturbed := ⟨hm, rfl, by simp⟩
    obtain ⟨-, hcancel, hresult⟩ :=
      ((s.accept r).dispatch_begins.undisturbed haccepted).runRequest (runRequest_of_exec hr hp h)
    exact ⟨hcancel, hresult⟩

end
end Sys2Proof.Machine
end

/-! ### The frame of a whole request -/

section
namespace Sys2Proof.Machine

/-- What a request leaves alone from its acceptance to its response: the ledger without the host's moves and CANCEL,
which every transition takes, and without NUNITS, which the plan writes. -/
def State.order (s : State) : Ledger := { s.ledger true with moves := [], cancel := false, nunits := 0 }

section
variable {s t : State}

/-- The response leads to DEAD or to IDLE (R280). -/
theorem State.respond_pc (s : State) : s.respond.eng.pc = .dead ∨ s.respond.eng.pc = .idle := by
  rw [State.respond_eng]
  split
  · exact .inl rfl
  · exact .inr rfl

/-- With the response a request ends. -/
theorem State.respond_not_inFlight (s : State) : s.respond.eng.pc.inFlight = false := by
  rcases s.respond_pc with h | h <;> rw [h] <;> rfl

/-- A transition within a unit stays in its operation. -/
theorem operation_of_edge {p q : Pc} (h : (p, q) ∈ unitEdges) : q.operation = p.operation := by
  have hedges : ∀ e ∈ unitEdges, e.2.operation = e.1.operation := by decide
  exact hedges (p, q) h

/-- Behind the test of the unit loop the sequencer stands in OP's operation. -/
theorem State.AtLoop.inItsOperation (h : s.AtLoop) : s.InItsOperation := by
  rcases h with ⟨-, hp⟩ | hp
  · exact .inr (by rw [hp])
  · exact .inl (by rw [hp]; rfl)

/-- A sequencer state of no operation belongs to every operation. -/
theorem State.inItsOperation_of_pc {p : Pc} (hp : s.eng.pc = p) (h : p.operation = none) : s.InItsOperation :=
  .inl (by rw [hp, h])

/-- A move within an operation stays in it. -/
theorem State.InItsOperation.of_operation (h : s.InItsOperation) (hop : t.eng.op = s.eng.op)
    (hpc : t.eng.pc.operation = s.eng.pc.operation) : t.InItsOperation := by
  unfold State.InItsOperation at h ⊢
  rwa [hop, hpc]

/-- While a request is in flight the sequencer stays in the operation that OP names. -/
theorem State.Flow.inItsOperation (h : s.Flow t) (hp : s.eng.pc.inFlight = true) (hs : s.InItsOperation)
    (hop : t.eng.op = s.eng.op) : t.InItsOperation := by
  cases h with
  | rests out _ => rw [hp] at out; cases out
  | sends edge => exact hs.of_operation hop (operation_of_edge (unitFrameEdges_subset edge))
  | awaits edge => exact hs.of_operation hop (operation_of_edge (awaitEdges_subset edge))
  | readies edge => exact hs.of_operation hop (operation_of_edge (readyEdges_subset edge))
  | settles edge => exact hs.of_operation hop (operation_of_edge (settledEdges_subset edge))
  | polls _ pc => exact hs.of_operation hop (by rw [pc])
  | loops _ _ loop | reads _ _ loop | recovers _ _ loop => exact loop.inItsOperation
  | disables _ pc => exact State.inItsOperation_of_pc pc rfl
  | breaks _ pc | givesUp _ pc | cancels _ _ pc => exact State.inItsOperation_of_pc pc rfl
  | responds _ result =>
    rw [result]
    rcases s.respond_pc with hpc | hpc <;> exact State.inItsOperation_of_pc hpc rfl

theorem State.Begins.inItsOperation (h : s.Begins t) : t.InItsOperation := by
  rcases h.place with hp | ⟨hp, -⟩ | ⟨hloop, -⟩
  · exact State.inItsOperation_of_pc hp rfl
  · exact State.inItsOperation_of_pc hp rfl
  · exact hloop.inItsOperation

/-- Nobody resets the engine, and the sequencer stands in the operation that OP names. -/
structure State.Running (s : State) : Prop where
  noReset : s.NoReset
  inItsOperation : s.InItsOperation

/-- A transition in flight that nobody resets is a move of the sequencer, and keeps so. -/
theorem State.Running.seq_of_transition (hs : s.Running) (hp : s.eng.pc.inFlight = true)
    (h : s.transition = .next t) : s.takeMove.seq = .next t ∧ t.Running := by
  have hseq : s.takeMove.seq = .next t := by
    rwa [State.transition_of_no_reset s (s.resetNow_of_noReset hs.noReset)] at h
  have hledger := State.ledger_seq (exact := false) (by simp) hseq
  have hop : t.eng.op = s.takeMove.eng.op := congrArg Ledger.op hledger
  have hmoves : t.host.moves = s.host.moves.tail := congrArg Ledger.moves hledger
  refine ⟨hseq, ?_, (State.flow_of_seq hseq).inItsOperation hp hs.inItsOperation hop⟩
  rw [State.NoReset, hmoves]
  exact fun hmem => hs.noReset (List.mem_of_mem_tail hmem)

theorem State.Running.order_transition (hs : s.Running) (hp : s.eng.pc.inFlight = true)
    (h : s.transition = .next t) : t.order = s.order := by
  obtain ⟨hseq, -⟩ := hs.seq_of_transition hp h
  have hbringup : s.takeMove.eng.pc ≠ .bringup := fun hb => by
    rw [show s.eng.pc = .bringup from hb] at hp; cases hp
  have hledger : t.ledger true = s.takeMove.ledger true :=
    State.ledger_seq (fun _ => ⟨hs.inItsOperation, hbringup⟩) hseq
  rw [State.order, hledger]
  rfl

/-- A relation that holds across each transition of a running request holds across the whole run. -/
theorem State.Running.induction {R : State → State → Prop} (refl : ∀ u, R u u)
    (trans : ∀ {u v w}, R u v → R v w → R u w)
    (step : ∀ {u v}, u.Running → u.eng.pc.inFlight = true → u.transition = .next v → R u v)
    (hs : s.Running) (h : s.runRequest = .next t) : R s t :=
  runInFlight_induction (R := fun u v => u.Running → R u v) (fun u _ => refl u)
    (fun _ _ _ hp hmove hrest hu => trans (step hu hp hmove) (hrest (hu.seq_of_transition hp hmove).2)) h hs

theorem State.Running.order_runRequest (hs : s.Running) (h : s.runRequest = .next t) : t.order = s.order :=
  hs.induction (R := fun u v => v.order = u.order) (fun _ => rfl) (fun huv hvw => hvw.trans huv)
    (fun hu hp hmove => hu.order_transition hp hmove) h

/-- A request that nobody resets runs from its acceptance on. -/
theorem State.Begins.running (h : s.Begins t) (hs : s.NoReset) : t.Running := by
  have hmoves : t.host.moves = s.host.moves := congrArg Ledger.moves (h.ledger false)
  exact ⟨by rwa [State.NoReset, hmoves], h.inItsOperation⟩

theorem State.Begins.order (h : s.Begins t) : t.order = s.order := by
  rw [State.order, h.ledger true]
  rfl

/-- The frame of every host operation: the ledger of its acceptance. -/
theorem order_of_exec {i : Instr} {r : Request} (hi : encode i = .request r) (hp : s.eng.pc.ready = true)
    (hs : s.NoReset) (h : exec i s = .next t) : t.order = (s.accept r).order := by
  have hbegins := (s.accept r).dispatch_begins
  exact ((hbegins.running hs).order_runRequest (runRequest_of_exec hi hp h)).trans hbegins.order

/-- A run that begins at the response drives it at once. -/
theorem State.runRequest_of_respond (hp : s.eng.pc = .respond) (hr : s.resetNow = false) :
    s.runRequest = .next s.takeMove.respond := by
  have hmove : s.transition = .next s.takeMove.respond := by
    rw [State.transition_of_no_reset s hr]
    simp [State.seq, hp]
  rw [State.runRequest, State.requestFuel, runInFlight_succ _ (by rw [hp]; rfl) hmove,
    runInFlight_of_not_inFlight _ (State.respond_not_inFlight _)]

/-- GEOMETRY is its acceptance and its response. -/
theorem geometry_result {offset length : Nat} {buf : Option Nat} (hp : s.eng.pc.ready = true) (hs : s.NoReset)
    (h : exec (.geometry offset length buf) s = .next t) :
    t = ((s.accept ⟨hostGeometry, offset, length, buf⟩).finish 0).takeMove.respond := by
  have hrun := runRequest_of_exec (r := ⟨hostGeometry, offset, length, buf⟩) rfl hp h
  have hresponds := State.runRequest_of_respond
    (s := (s.accept ⟨hostGeometry, offset, length, buf⟩).finish 0) rfl (State.resetNow_of_noReset _ hs)
  rw [State.dispatch_of_geometry rfl, State.geometryOp, hresponds] at hrun
  exact (Host.Outcome.next.inj hrun).symm

/-- The buffers that BUF does not name are the same where their ledgers agree. -/
theorem State.bufs_getElem?_of_otherBuffers (h : t.otherBuffers = s.otherBuffers) (hbuf : t.eng.buf = s.eng.buf)
    {k : Nat} (hk : s.eng.buf ≠ some k) : t.host.bufs[k]? = s.host.bufs[k]? := by
  unfold State.otherBuffers at h
  rw [hbuf] at h
  cases hb : s.eng.buf with
  | none => simpa [hb] using congrArg (·[k]?) h
  | some j =>
    have hjk : j ≠ k := fun e => hk (by rw [hb, e])
    simpa [hb, List.getElem?_modify, hjk] using congrArg (·[k]?) h

/-- What the ledger holds is the same in two states of one order. -/
theorem State.fields_of_order (h : t.order = s.order) :
    t.cfg = s.cfg ∧ t.framePort = s.framePort ∧ t.host.requests = s.host.requests ∧ t.dev.bp = s.dev.bp ∧
      t.eng.op = s.eng.op ∧ t.eng.offset = s.eng.offset ∧ t.eng.length = s.eng.length ∧
      t.eng.buf = s.eng.buf := by
  simp only [State.order, State.ledger, Ledger.mk.injEq, if_true, Option.some.injEq] at h
  simp only [h, and_self]

theorem State.buffers_of_order (h : t.order = s.order) (hop : s.eng.op = hostErase ∨ s.eng.op = hostWrite) :
    t.host.bufs = s.host.bufs ∧ t.eng.col = s.eng.col ∧ t.eng.slen = s.eng.slen := by
  have hopt : t.eng.op = s.eng.op := congrArg Ledger.op h
  simp only [State.order, State.ledger, Ledger.mk.injEq, hopt, hop, true_and, if_true, Option.some.injEq,
    Prod.mk.injEq] at h
  simp only [h, and_self]

theorem State.dst_of_order (h : t.order = s.order) (hop : s.eng.op = hostErase) : t.eng.dst = s.eng.dst := by
  have hopt : t.eng.op = s.eng.op := congrArg Ledger.op h
  have hdst := congrArg Ledger.dst h
  simpa [State.order, State.ledger, hopt, hop] using hdst

theorem State.otherBuffers_of_order (h : t.order = s.order) (hop : s.eng.op ≠ hostErase ∧ s.eng.op ≠ hostWrite) :
    t.otherBuffers = s.otherBuffers := by
  have hopt : t.eng.op = s.eng.op := congrArg Ledger.op h
  have hbufs := congrArg Ledger.bufs h
  simpa [State.order, State.ledger, hopt, hop] using hbufs

/-- Settles O54: the ledger of the acceptance stands at the response, and GEOMETRY is no more than these two. -/
theorem hostOperationsWriteOnlyTheirRegisters : Obligations.HostOperationsWriteOnlyTheirRegisters := by
  intro s t offset length buf i hp hs hi h
  obtain ⟨op, henc⟩ : ∃ op, encode i = .request ⟨op, offset, length, buf⟩ := by
    rcases hi with rfl | rfl | rfl | rfl <;> exact ⟨_, rfl⟩
  have hgeometry (e : i = .geometry offset length buf) : op = hostGeometry := by subst e; cases henc; rfl
  have herase (e : i = .erase offset length buf) : op = hostErase := by subst e; cases henc; rfl
  have hread (e : i = .read offset length buf) : op = hostRead := by subst e; cases henc; rfl
  have hwrite (e : i = .write offset length buf) : op = hostWrite := by subst e; cases henc; rfl
  have horder := order_of_exec henc hp hs h
  obtain ⟨hcfg, hport, hrequests, hbp, hop, hoffset, hlength, hbuf⟩ := State.fields_of_order horder
  refine ⟨hcfg, hport, hrequests, hbp, hoffset, hlength, hbuf, fun e => hop.trans (hgeometry e),
    fun e => hop.trans (herase e), fun e => hop.trans (hread e), fun e => hop.trans (hwrite e), fun hne => ?_,
    fun e => (State.dst_of_order horder (herase e) :), fun e k hk => ?_, fun e => ?_⟩
  · rcases hi with e | e | e | e
    · subst e
      simp [geometry_result hp hs h]
    · exact (State.buffers_of_order horder (.inl (herase e)) :)
    · exact absurd e hne
    · exact (State.buffers_of_order horder (.inr (hwrite e)) :)
  · have hother := State.otherBuffers_of_order horder (ne_erase_write_of_read (hread e))
    exact (State.bufs_getElem?_of_otherBuffers hother hbuf hk :)
  · subst e
    simp [geometry_result hp hs h]

end
end Sys2Proof.Machine
end

/-! ### What a request can still cost

`State.budget` bounds what the rest of a request costs, where a frame costs 1 and a transition that sends none costs
`quiet`. With `quiet = 0` it bounds the frames (R25), with `quiet = 1` the transitions. -/

section
namespace Sys2Proof.Machine

/-- What the unit loop can cost from its test on, with so many units to come: each unit costs at most three frames, the
reads of its await and two transitions more; at the end stand a write-disable and the response. -/
def loopBudget (c : Config) (quiet units : Nat) : Nat := units * (c.pollLimit + 3 + 2 * quiet) + 1 + quiet

/-- The bound on the rest of a request. -/
def State.budget (quiet : Nat) (s : State) : Nat :=
  let later := s.eng.nunits - (s.eng.unit + 1)
  let reads := s.cfg.pollLimit - s.eng.polls
  match s.eng.pc with
  | .recover => loopBudget s.cfg quiet s.eng.nunits + reads + quiet
  | .eUnit | .pUnit | .rUnit => loopBudget s.cfg quiet (later + 1)
  | .eWel | .pWel => loopBudget s.cfg quiet later + s.cfg.pollLimit + 2 + 2 * quiet
  | .pLoaded => loopBudget s.cfg quiet later + s.cfg.pollLimit + 1 + 2 * quiet
  | .rPageLoaded => loopBudget s.cfg quiet later + s.cfg.pollLimit + 2 + 2 * quiet
  | .eCmd | .pCmd => loopBudget s.cfg quiet later + s.cfg.pollLimit + 2 * quiet
  | .eBusy | .pBusy => loopBudget s.cfg quiet later + reads + 2 * quiet
  | .rBusy => loopBudget s.cfg quiet later + reads + 2 + 2 * quiet
  | .rReady => loopBudget s.cfg quiet later + 1
  | .eReady | .pReady => loopBudget s.cfg quiet (s.eng.nunits - s.eng.unit) + quiet
  | .eFailed | .pFailed => 1 + 2 * quiet
  | .wrdi => 1 + quiet
  | .respond => quiet
  | .bringup | .idle | .dead => 0

/-- A transition with its cost paid from the budget: 1 for a frame, `quiet` where none is sent. -/
def State.Pays (quiet : Nat) (s t : State) : Prop :=
  (t.frameCount = s.frameCount + 1 ∧ t.budget quiet + 1 ≤ s.budget quiet) ∨
    (t.frameCount = s.frameCount ∧ t.budget quiet + quiet ≤ s.budget quiet)

/-- The counter of an await stays within its limit (R172). -/
structure State.PollsBounded (s : State) : Prop where
  limit : 1 ≤ s.cfg.pollLimit
  polls : s.eng.pc ∈ pollingStates → s.eng.polls ≤ s.cfg.pollLimit

section
variable {s t : State} {quiet : Nat}

theorem loopBudget_succ (c : Config) (units : Nat) :
    loopBudget c quiet (units + 1) = loopBudget c quiet units + (c.pollLimit + 3 + 2 * quiet) := by
  simp only [loopBudget]; ring

theorem le_loopBudget (c : Config) (units : Nat) : 1 + quiet ≤ loopBudget c quiet units := by
  simp only [loopBudget]; omega

/-- A request that has ended costs nothing. -/
theorem State.budget_of_not_inFlight (h : s.eng.pc.inFlight = false) : s.budget quiet = 0 := by
  cases hp : s.eng.pc <;> simp_all [Pc.inFlight, State.budget]

/-- The unit loop costs no more than its budget. -/
theorem State.AtLoop.budget_le (h : t.AtLoop) :
    t.budget quiet ≤ loopBudget t.cfg quiet (t.eng.nunits - t.eng.unit) := by
  rcases h with ⟨hlt, hp⟩ | hp
  · have hunits : t.eng.nunits - (t.eng.unit + 1) + 1 = t.eng.nunits - t.eng.unit := by omega
    have hbudget : t.budget quiet = loopBudget t.cfg quiet (t.eng.nunits - (t.eng.unit + 1) + 1) := by
      unfold unitBoundaryOf at hp
      split_ifs at hp <;> simp [State.budget, hp]
    rw [hbudget, hunits]
  · have := le_loopBudget (quiet := quiet) t.cfg (t.eng.nunits - t.eng.unit)
    simp only [State.budget, hp]
    omega

/-- A request in flight that has not reached its response can still pay for an error. -/
theorem State.le_budget (hp : s.eng.pc.inFlight = true ∧ s.eng.pc ≠ .respond) : 1 + quiet ≤ s.budget quiet := by
  have hpositive (units : Nat) := le_loopBudget (quiet := quiet) s.cfg units
  have hlater := hpositive (s.eng.nunits - (s.eng.unit + 1))
  have hunit := hpositive (s.eng.nunits - (s.eng.unit + 1) + 1)
  have hrest := hpositive (s.eng.nunits - s.eng.unit)
  have hplan := hpositive s.eng.nunits
  obtain ⟨hin, hne⟩ := hp
  cases hp : s.eng.pc
  case respond => exact absurd hp hne
  case bringup | idle | dead => rw [hp] at hin; cases hin
  all_goals
    simp only [State.budget, hp]
    omega

/-- Every transition in flight pays its cost. -/
theorem State.Flow.pays (h : s.Flow t) (hp : s.eng.pc.inFlight = true) (hs : s.PollsBounded)
    (hcfg : t.cfg = s.cfg) (hn : t.eng.nunits = s.eng.nunits) : s.Pays quiet t := by
  have hlater := loopBudget_succ (quiet := quiet) s.cfg (s.eng.nunits - (s.eng.unit + 1))
  have hpositive := le_loopBudget (quiet := quiet) s.cfg (s.eng.nunits - (s.eng.unit + 1))
  cases h with
  | rests out _ => rw [hp] at out; cases out
  | sends edge unit _ sent =>
    refine .inl ⟨sent, ?_⟩
    simp only [unitFrameEdges, List.mem_cons, Prod.mk.injEq, List.not_mem_nil, or_false] at edge
    rcases edge with ⟨h1, h2⟩ | ⟨h1, h2⟩ | ⟨h1, h2⟩ | ⟨h1, h2⟩ | ⟨h1, h2⟩ | ⟨h1, h2⟩ <;>
      simp only [State.budget, h1, h2, unit, hcfg, hn] <;> omega
  | awaits edge unit polls _ sent =>
    have hlimit := hs.limit
    refine .inl ⟨sent, ?_⟩
    simp only [awaitEdges, List.mem_cons, Prod.mk.injEq, List.not_mem_nil, or_false] at edge
    rcases edge with ⟨h1, h2⟩ | ⟨h1, h2⟩ | ⟨h1, h2⟩ <;>
      simp only [State.budget, h1, h2, unit, polls, hcfg, hn] <;> omega
  | polls polling pc unit more polls _ sent =>
    have hlimit := hs.limit
    have hpolls := hs.polls polling
    refine .inl ⟨sent, ?_⟩
    simp only [pollingStates, List.mem_cons, List.not_mem_nil, or_false] at polling
    rcases polling with h | h | h | h <;> simp only [State.budget, pc, h, unit, polls, hcfg, hn] <;> omega
  | readies edge unit _ sent =>
    refine .inr ⟨sent, ?_⟩
    simp only [readyEdges, List.mem_cons, Prod.mk.injEq, List.not_mem_nil, or_false] at edge
    rcases edge with ⟨h1, h2⟩ | ⟨h1, h2⟩ <;> simp only [State.budget, h1, h2, unit, hcfg, hn] <;> omega
  | settles edge unit _ sent =>
    refine .inr ⟨sent, ?_⟩
    simp only [settledEdges, List.mem_cons, Prod.mk.injEq, List.not_mem_nil, or_false] at edge
    rcases edge with ⟨h1, h2⟩ | ⟨h1, h2⟩ | ⟨h1, h2⟩ <;>
      simp only [State.budget, h1, h2, unit, hcfg, hn] <;> omega
  | loops ready unit loop _ sent =>
    have hloop := loop.budget_le (quiet := quiet)
    rw [hcfg, hn, unit] at hloop
    refine .inr ⟨sent, ?_⟩
    rcases ready with h | h <;> simp only [State.budget, h] <;> exact Nat.add_le_add_right hloop quiet
  | reads ready unit loop _ sent =>
    have hloop := loop.budget_le (quiet := quiet)
    rw [hcfg, hn, unit] at hloop
    refine .inl ⟨sent, ?_⟩
    simpa only [State.budget, ready] using Nat.add_le_add_right hloop 1
  | recovers recover unit loop _ sent =>
    have hloop := loop.budget_le (quiet := quiet)
    rw [hcfg, hn, unit, Nat.sub_zero] at hloop
    have hbudget : s.budget quiet =
        loopBudget s.cfg quiet s.eng.nunits + (s.cfg.pollLimit - s.eng.polls) + quiet := by
      simp only [State.budget, recover]
    exact .inr ⟨sent, by omega⟩
  | disables failed pc _ sent =>
    refine .inr ⟨sent, ?_⟩
    rcases failed with h | h <;> simp only [State.budget, h, pc] <;> omega
  | breaks running pc _ sent =>
    have hbudget := State.le_budget (quiet := quiet) running
    refine .inl ⟨sent, ?_⟩
    rw [show t.budget quiet = quiet by simp only [State.budget, pc]]
    omega
  | givesUp place pc _ sent =>
    have hrecover := le_loopBudget (quiet := quiet) s.cfg s.eng.nunits
    refine .inr ⟨sent, ?_⟩
    simp only [pollingStates, List.mem_cons, List.not_mem_nil, or_false] at place
    rcases place with h | h | h | h | h | h <;> simp only [State.budget, pc, h] <;> omega
  | cancels boundary _ pc sent =>
    refine .inr ⟨sent, ?_⟩
    rcases Pc.unitBoundary_iff.1 boundary with h | h | h <;> simp only [State.budget, pc, h] <;> omega
  | responds pc result =>
    have hended : t.budget quiet = 0 := State.budget_of_not_inFlight (result ▸ s.respond_not_inFlight)
    have hresponse : s.budget quiet = quiet := by simp only [State.budget, pc]
    exact .inr ⟨result ▸ rfl, by omega⟩

/-- A state that reads the status again and again is in flight. -/
theorem Pc.inFlight_of_polling {p : Pc} (h : p ∈ pollingStates) : p.inFlight = true := by
  revert h; revert p; decide

/-- Within a unit only the beginning of its await leads to a polling state. -/
theorem not_polling_of_edge {p q : Pc}
    (h : (p, q) ∈ unitFrameEdges ∨ (p, q) ∈ readyEdges ∨ (p, q) ∈ settledEdges) : q ∉ pollingStates := by
  have hedges : ∀ e ∈ unitFrameEdges ++ readyEdges ++ settledEdges, e.2 ∉ pollingStates := by decide
  exact hedges (p, q) (by simpa [or_assoc] using h)

theorem State.AtLoop.not_polling (h : s.AtLoop) : s.eng.pc ∉ pollingStates := by
  have hstates : ∀ p ∈ [Pc.eUnit, .pUnit, .rUnit, .respond], p ∉ pollingStates := by decide
  exact hstates _ h.pc_mem

/-- The counter of an await stays within its limit while a request is in flight. -/
theorem State.Flow.pollsBounded (h : s.Flow t) (hp : s.eng.pc.inFlight = true) (hs : s.PollsBounded)
    (hcfg : t.cfg = s.cfg) : t.PollsBounded := by
  have hlimit := hs.limit
  refine ⟨hcfg ▸ hlimit, fun hpolling => ?_⟩
  rw [hcfg]
  cases h with
  | rests out _ => rw [hp] at out; cases out
  | awaits _ _ polls _ _ => rw [polls]; exact hlimit
  | polls polling _ _ more polls _ _ =>
    have := hs.polls polling
    omega
  | sends edge => exact absurd hpolling (not_polling_of_edge (.inl edge))
  | readies edge => exact absurd hpolling (not_polling_of_edge (.inr (.inl edge)))
  | settles edge => exact absurd hpolling (not_polling_of_edge (.inr (.inr edge)))
  | loops _ _ loop | reads _ _ loop | recovers _ _ loop => exact absurd hpolling loop.not_polling
  | disables _ pc | breaks _ pc | givesUp _ pc | cancels _ _ pc => simp [pc, pollingStates] at hpolling
  | responds _ result =>
    have hended := s.respond_not_inFlight
    rw [← result, Pc.inFlight_of_polling hpolling] at hended
    cases hended

/-! ### The bound on frames -/

/-- Before its first unit a request can cost its plan and the reads of a recovery await. -/
theorem State.Begins.budget_le (h : s.Begins t) :
    t.budget quiet ≤ loopBudget t.cfg quiet t.eng.nunits + t.cfg.pollLimit + quiet := by
  have hpositive := le_loopBudget (quiet := quiet) t.cfg t.eng.nunits
  rcases h.place with hp | ⟨hp, hpolls⟩ | ⟨hloop, hunit⟩
  · simp only [State.budget, hp]
    omega
  · simp only [State.budget, hp, hpolls]
    omega
  · have hbudget := hloop.budget_le (quiet := quiet)
    rw [hunit, Nat.sub_zero] at hbudget
    omega

theorem State.Begins.pollsBounded (h : s.Begins t) (hlimit : 1 ≤ s.cfg.pollLimit) : t.PollsBounded := by
  have hcfg : t.cfg = s.cfg := congrArg Ledger.cfg (h.ledger false)
  refine ⟨hcfg ▸ hlimit, fun hpolling => ?_⟩
  rcases h.place with hp | ⟨-, hpolls⟩ | ⟨hloop, -⟩
  · simp [hp, pollingStates] at hpolling
  · omega
  · exact absurd hpolling hloop.not_polling

/-- The request's own trace and what it can still send stay within the bound. -/
def State.SendsWithin (s t : State) : Prop :=
  s.PollsBounded → t.PollsBounded ∧ t.cfg = s.cfg ∧ t.eng.nunits = s.eng.nunits ∧
    t.frameCount + t.budget 0 ≤ s.frameCount + s.budget 0

/-- A transition in flight keeps what bounds the request, and pays. -/
theorem State.Running.pays (hs : s.Running) (hp : s.eng.pc.inFlight = true) (hpolls : s.PollsBounded)
    (h : s.transition = .next t) :
    t.PollsBounded ∧ t.cfg = s.cfg ∧ t.eng.nunits = s.eng.nunits ∧ s.Pays quiet t := by
  obtain ⟨hseq, -⟩ := hs.seq_of_transition hp h
  have hledger := State.ledger_seq (exact := false) (by simp) hseq
  have hcfg : t.cfg = s.takeMove.cfg := congrArg Ledger.cfg hledger
  have hnunits : t.eng.nunits = s.takeMove.eng.nunits := congrArg Ledger.nunits hledger
  have hbounded : s.takeMove.PollsBounded := ⟨hpolls.limit, hpolls.polls⟩
  have hflow := State.flow_of_seq hseq
  exact ⟨hflow.pollsBounded hp hbounded hcfg, hcfg, hnunits, hflow.pays hp hbounded hcfg hnunits⟩

theorem State.Running.sendsWithin (hs : s.Running) (h : s.runRequest = .next t) : s.SendsWithin t := by
  refine hs.induction (R := State.SendsWithin) (fun _ hu => ⟨hu, rfl, rfl, le_rfl⟩) (fun huv hvw hu => ?_)
    (fun hu hp hmove hpolls => ?_) h
  · obtain ⟨hv, hcfg, hn, hle⟩ := huv hu
    obtain ⟨hw, hcfg', hn', hle'⟩ := hvw hv
    exact ⟨hw, hcfg'.trans hcfg, hn'.trans hn, hle'.trans hle⟩
  · obtain ⟨hv, hcfg, hn, hpays⟩ := hu.pays (quiet := 0) hp hpolls hmove
    refine ⟨hv, hcfg, hn, ?_⟩
    rcases hpays with ⟨hsent, hle⟩ | ⟨hsent, hle⟩ <;> omega

/-- A valid configuration allows one status read at least (R8). -/
theorem pollLimit_pos {c : Config} (h : c.valid = true) : 1 ≤ c.pollLimit := by
  have hpositive : isPositive c.pollLimit = true := by
    simp only [Config.valid, Bool.and_eq_true] at h
    exact h.2
  cases hl : c.pollLimit with
  | zero => rw [hl] at hpositive; cases hpositive
  | succ n => omega

/-- Settles O53: the frames are paid from the budget that the request begins with. -/
theorem requestFramesAreBounded : Obligations.RequestFramesAreBounded := by
  intro s t i hv hp hs hi h
  obtain ⟨r, hr⟩ := encode_of_operation hi
  have hbegins := (s.accept r).dispatch_begins
  have hpolls := hbegins.pollsBounded (pollLimit_pos hv)
  have hbudget := hbegins.budget_le (quiet := 0)
  have hcfg : (s.accept r).dispatch.cfg = s.cfg := congrArg Ledger.cfg (hbegins.ledger false)
  have hnone : (s.accept r).dispatch.frameCount = 0 := State.frameCount_eq_of_trace hbegins.trace
  obtain ⟨-, -, hn, hle⟩ := (hbegins.running hs).sendsWithin (runRequest_of_exec hr hp h) hpolls
  rw [hcfg, ← hn, loopBudget] at hbudget
  change t.frameCount ≤ _
  nlinarith

end
end Sys2Proof.Machine
end

/-! ### The plan stands while a request runs -/

section
namespace Sys2Proof.Machine

section
variable {s t : State}

/-- The plan is read from what the ledger holds. -/
theorem State.Planned.of_ledger (hs : s.Planned) (h : t.ledger false = s.ledger false) : t.Planned := by
  have hcfg : t.cfg = s.cfg := congrArg Ledger.cfg h
  have hop : t.eng.op = s.eng.op := congrArg Ledger.op h
  have hoffset : t.eng.offset = s.eng.offset := congrArg Ledger.offset h
  have hlength : t.eng.length = s.eng.length := congrArg Ledger.length h
  have hnunits : t.eng.nunits = s.eng.nunits := congrArg Ledger.nunits h
  obtain ⟨hchecks, hnonempty, hunits⟩ := hs
  refine ⟨?_, ?_, ?_⟩
  · simpa only [State.checksPass, hcfg, hop, hoffset, hlength] using hchecks
  · rwa [hlength]
  · simpa only [State.plannedUnits, hcfg, hop, hoffset, hlength, hnunits] using hunits

/-- The host's move does not touch the plan. -/
theorem State.Planned.takeMove (h : s.Planned) : s.takeMove.Planned := ⟨h.checks, h.nonempty, h.units⟩

theorem State.PlanStands.takeMove (h : s.PlanStands) : s.takeMove.PlanStands where
  recovering hp := (h.recovering hp).imp_left State.Planned.takeMove
  running op hop := (h.running op hop).imp_right (And.imp_left State.Planned.takeMove)
  inPlan := h.inPlan

/-- A planned request is an ERASE, a WRITE or a READ, and its units are its operation's. -/
theorem State.Planned.operation_unitBoundary (h : s.Planned) :
    (unitBoundaryOf s.eng.op).operation = some s.eng.op := by
  have hchecks := h.checks
  unfold State.checksPass at hchecks
  unfold unitBoundaryOf
  split_ifs at hchecks ⊢ <;> simp_all [Pc.operation]

/-- In a sequencer state of no operation, but for the recovery await, no plan is needed. -/
theorem State.PlanStands.of_outside (h : s.eng.pc.operation = none) (hrec : s.eng.pc ≠ .recover) : s.PlanStands where
  recovering hp := absurd hp hrec
  running op hop := by rw [h] at hop; cases hop
  inPlan hop := absurd h hop

/-- Behind the test of the unit loop the plan stands, and the unit is one of it. -/
theorem State.AtLoop.planStands (h : s.AtLoop) (hplanned : s.Planned) (halive : s.eng.wasDead = false) :
    s.PlanStands := by
  rcases h with ⟨hunit, hp⟩ | hp
  · refine ⟨fun _ => ⟨hplanned, halive⟩, fun op hop => ?_, fun _ _ _ => hunit⟩
    rw [hp, hplanned.operation_unitBoundary] at hop
    exact ⟨Option.some.inj hop, hplanned, halive⟩
  · exact .of_outside (by rw [hp]; rfl) (by rw [hp]; decide)

/-- A move within the units of an operation keeps the plan, if it leaves a unit of the plan. -/
theorem State.PlanStands.of_operation (hs : s.PlanStands) (h : t.ledger false = s.ledger false)
    (hop : t.eng.pc.operation = s.eng.pc.operation) (hsome : s.eng.pc.operation ≠ none)
    (hunit : t.eng.pc ≠ .eReady → t.eng.pc ≠ .pReady → t.eng.unit < t.eng.nunits) : t.PlanStands := by
  refine ⟨fun hp => ?_, fun op hpc => ?_, fun _ => hunit⟩
  · rw [hp] at hop
    exact absurd hop.symm hsome
  · obtain ⟨heq, hplanned, halive⟩ := hs.running op (hop ▸ hpc)
    exact ⟨(congrArg Ledger.op h).trans heq, hplanned.of_ledger h, (congrArg Ledger.wasDead h).trans halive⟩

/-- A transition within a unit begins in a unit of the plan. -/
theorem unit_of_edge {p q : Pc} (h : (p, q) ∈ unitEdges) : p.operation ≠ none ∧ p ≠ .eReady ∧ p ≠ .pReady := by
  have hedges : ∀ e ∈ unitEdges, e.1.operation ≠ none ∧ e.1 ≠ .eReady ∧ e.1 ≠ .pReady := by decide
  exact hedges (p, q) h

/-- A move along an edge within a unit keeps the plan. -/
theorem State.PlanStands.of_edge (hs : s.PlanStands) (h : t.ledger false = s.ledger false)
    (hedge : (s.eng.pc, t.eng.pc) ∈ unitEdges) (hunit : t.eng.unit = s.eng.unit) : t.PlanStands := by
  obtain ⟨hsome, he, hp⟩ := unit_of_edge hedge
  have hn : t.eng.nunits = s.eng.nunits := congrArg Ledger.nunits h
  exact hs.of_operation h (operation_of_edge hedge) hsome fun _ _ => by
    rw [hunit, hn]; exact hs.inPlan hsome he hp

/-- The plan stands across every move of a request in flight. -/
theorem State.Flow.planStands (h : s.Flow t) (hp : s.eng.pc.inFlight = true) (hs : s.PlanStands)
    (hledger : t.ledger false = s.ledger false) : t.PlanStands := by
  have hn : t.eng.nunits = s.eng.nunits := congrArg Ledger.nunits hledger
  have halive : t.eng.wasDead = s.eng.wasDead := congrArg Ledger.wasDead hledger
  have hloop (hplanned : s.Planned ∧ s.eng.wasDead = false) (loop : t.AtLoop) : t.PlanStands :=
    loop.planStands (hplanned.1.of_ledger hledger) (halive.trans hplanned.2)
  cases h with
  | rests out _ => rw [hp] at out; cases out
  | sends edge unit => exact hs.of_edge hledger (unitFrameEdges_subset edge) unit
  | awaits edge unit => exact hs.of_edge hledger (awaitEdges_subset edge) unit
  | settles edge unit => exact hs.of_edge hledger (settledEdges_subset edge) unit
  | readies edge =>
    have hready : ∀ e ∈ readyEdges, e.2 = .eReady ∨ e.2 = .pReady := by decide
    have hmem := readyEdges_subset edge
    exact hs.of_operation hledger (operation_of_edge hmem) (unit_of_edge hmem).1 fun he hp =>
      absurd (hready _ edge) (not_or.2 ⟨he, hp⟩)
  | polls polling pc unit =>
    by_cases hrec : s.eng.pc = .recover
    · obtain ⟨hplanned, hdead⟩ := hs.recovering hrec
      refine ⟨fun _ => ⟨hplanned.of_ledger hledger, halive.trans hdead⟩, fun op hop => ?_, fun hop => ?_⟩
      · rw [pc, hrec] at hop; cases hop
      · exact absurd (by rw [pc, hrec]; rfl) hop
    · have hunit : ∀ p ∈ pollingStates, p ≠ .recover → p.operation ≠ none ∧ p ≠ .eReady ∧ p ≠ .pReady := by
        decide
      obtain ⟨hsome, he, hp⟩ := hunit _ polling hrec
      exact hs.of_operation hledger (by rw [pc]) hsome fun _ _ => by
        rw [unit, hn]; exact hs.inPlan hsome he hp
  | loops ready _ loop =>
    rcases ready with hp | hp
    · exact hloop (hs.running hostErase (by rw [hp]; rfl)).2 loop
    · exact hloop (hs.running hostWrite (by rw [hp]; rfl)).2 loop
  | reads ready _ loop => exact hloop (hs.running hostRead (by rw [ready]; rfl)).2 loop
  | recovers recover _ loop => exact hloop (hs.recovering recover) loop
  | disables _ pc => exact .of_outside (by rw [pc]; rfl) (by rw [pc]; decide)
  | breaks _ pc | givesUp _ pc | cancels _ _ pc => exact .of_outside (by rw [pc]; rfl) (by rw [pc]; decide)
  | responds _ result =>
    rw [result]
    rcases s.respond_pc with hpc | hpc <;> exact .of_outside (by rw [hpc]; rfl) (by rw [hpc]; decide)

theorem State.Begins.planStands (h : s.Begins t) : t.PlanStands := by
  cases h with
  | answers result =>
    have hp : t.eng.pc = .respond := by
      rcases result with rfl | rfl | rfl
      · rfl
      · rfl
      · rw [State.raiseBeforeUnits_eng]; rfl
    exact .of_outside (by rw [hp]; rfl) (by rw [hp]; decide)
  | recovers planned alive result =>
    have hledger : t.ledger false = s.withPlan.ledger false := by rw [result]; rfl
    have hp : t.eng.pc = .recover := by rw [result]; rfl
    have hdead : t.eng.wasDead = s.eng.wasDead := congrArg Ledger.wasDead hledger
    refine ⟨fun _ => ⟨planned.of_ledger hledger, hdead.trans alive⟩, fun op hop => ?_, fun hop => ?_⟩
    · rw [hp] at hop; cases hop
    · exact absurd (by rw [hp]; rfl) hop
  | loops planned alive result =>
    have hledger : t.ledger false = s.withPlan.ledger false := by rw [result]; exact State.ledger_firstUnit _
    have hdead : t.eng.wasDead = s.eng.wasDead := congrArg Ledger.wasDead hledger
    have hloop : t.AtLoop := result ▸ s.withPlan.firstUnit_eng.1
    exact hloop.planStands (planned.of_ledger hledger) (hdead.trans alive)

end
end Sys2Proof.Machine
end

/-! ### A request does not get stuck

The two places where the sequencer has no step are buffer accesses outside the buffer. The registers that aim them keep
them inside, as long as the host keeps its duty (R287 (b)). -/

section
namespace Sys2Proof.Machine

/-- The registers that aim a buffer access hold the unit's own place: DST of a program unit, DST and SLEN of a slice. -/
structure State.Aimed (s : State) : Prop where
  program : s.eng.pc = .pWel → s.eng.dst = s.eng.unit * s.cfg.pageSize
  slice : s.eng.pc = .rPageLoaded ∨ s.eng.pc = .rBusy ∨ s.eng.pc = .rReady →
    s.eng.dst = (sliceAt s.cfg s.eng.offset s.eng.length s.eng.unit).dst ∧
      s.eng.slen = (sliceAt s.cfg s.eng.offset s.eng.length s.eng.unit).lengthInPage

/-- A READ or WRITE has a buffer of its length (R287 (b)). -/
def State.DutyKept (s : State) : Prop := s.eng.op = hostRead ∨ s.eng.op = hostWrite → s.bufferKept = true

section
variable {s t : State}

/-! #### The buffer -/

/-- The length of the request's buffer is in the ledger. -/
theorem State.buffer_length_eq (s : State) :
    s.buffer.map List.length = s.eng.buf.bind fun h => s.otherBuffers[h]?.map List.length := by
  unfold State.buffer State.otherBuffers
  cases s.eng.buf with
  | none => rfl
  | some h => cases hb : s.host.bufs[h]? <;> simp [hb, wiped]

theorem State.bufferKept_iff : s.bufferKept = true ↔ s.buffer.map List.length = some s.eng.length := by
  unfold State.bufferKept
  cases s.buffer <;> simp

/-- The host's duty stays kept where the ledger stands, whatever is planned. -/
theorem State.DutyKept.of_ledger {n : Nat} (hs : s.DutyKept)
    (h : t.ledger false = { s.ledger false with nunits := n }) : t.DutyKept := by
  have hop : t.eng.op = s.eng.op := congrArg Ledger.op h
  have hlength : t.eng.length = s.eng.length := congrArg Ledger.length h
  have hbuf : t.eng.buf = s.eng.buf := congrArg Ledger.buf h
  have hother : t.otherBuffers = s.otherBuffers := by
    simpa [State.ledger] using congrArg Ledger.bufs h
  unfold State.DutyKept at hs ⊢
  rwa [hop, State.bufferKept_iff, State.buffer_length_eq, hbuf, hother, ← State.buffer_length_eq, hlength,
    ← State.bufferKept_iff]

/-- A read inside the buffer finds its bytes. -/
theorem State.memRead_of_le {i n : Nat} (hb : s.bufferKept = true) (hle : i + n ≤ s.eng.length) :
    ∃ d, s.memRead i n = some d := by
  obtain ⟨b, hb, hlen⟩ := Option.map_eq_some_iff.1 (State.bufferKept_iff.1 hb)
  exact ⟨_, by rw [State.memRead, hb]; exact if_pos (by omega)⟩

/-- A write inside the buffer is done. -/
theorem State.memWrite_of_le {i : Nat} {v : List Byte} (hb : s.bufferKept = true)
    (hle : i + v.length ≤ s.eng.length) :
    ∃ u, s.memWrite i v = some u := by
  obtain ⟨b, hb, hlen⟩ := Option.map_eq_some_iff.1 (State.bufferKept_iff.1 hb)
  exact ⟨_, by rw [State.memWrite, hb]; exact if_pos (by omega)⟩

/-! #### The bounds of a unit -/

/-- A program unit lies inside the request (R199). -/
theorem programUnit_le {c : Config} {length unit : Nat} (h : unit < programUnits c length) :
    unit * c.pageSize + c.pageSize ≤ length := by
  calc unit * c.pageSize + c.pageSize = (unit + 1) * c.pageSize := by ring
    _ ≤ length / c.pageSize * c.pageSize := Nat.mul_le_mul_right _ h
    _ ≤ length := Nat.div_mul_le_self _ _

/-- A slice lies inside the request (R203). -/
theorem sliceAt_le {c : Config} {offset length unit : Nat} (hlength : 0 < length)
    (h : unit < spannedPages c offset length) :
    (sliceAt c offset length unit).dst + (sliceAt c offset length unit).lengthInPage ≤ length := by
  have hspan : offset / c.pageSize ≤ (offset + length - 1) / c.pageSize := Nat.div_le_div_right (by omega)
  have hpage : (offset / c.pageSize + unit) * c.pageSize ≤ offset + length - 1 := by
    refine le_trans (Nat.mul_le_mul_right _ ?_) (Nat.div_mul_le_self _ _)
    unfold spannedPages at h
    omega
  simp only [sliceAt]
  omega

/-- The device sends as many bytes as a read from its cache asks for, be the frame a command or not. -/
theorem deviceReceives_readCache_length (col n : Nat) (s : State) :
    (deviceReceives ⟨readCacheFrame col, n⟩ s).1.length = n := by
  by_cases hn : n = 0
  · subst hn
    simp [deviceReceives, decodeFrame, readCacheFrame, readRcache, devReject, State.answerAny, Draws.anyBytes,
      opcRdc, opcPrdc, opcRdid, opcRdsr, opcWrsr, opcWren, opcWrdi]
  · rw [deviceReceives_rdc col n hn, devRdc]
    split <;> simp [State.answerAny, Draws.anyBytes]

/-- A read from cache is answered by as many bytes as it asks for, or by an error. -/
theorem State.send_readCache_reply (s : State) (col n : Nat) {d : List Byte}
    (h : (s.send (readCacheFrame col) n).reply = .data d) : d.length = n := by
  unfold State.send at h
  rcases State.transact_cases { s with trace := s.trace ++ [.frame (readCacheFrame col) n] }
    (deviceReceives ⟨readCacheFrame col, n⟩) with ⟨-, ht⟩ | ⟨-, ht⟩ | ⟨-, ht⟩ <;> rw [ht] at h <;> cases h
  exact deviceReceives_readCache_length col n _

/-! #### Every move is made -/

theorem State.exists_seqPWel (hb : s.bufferKept = true) (hle : s.eng.dst + s.cfg.pageSize ≤ s.eng.length) :
    ∃ t, s.seqPWel = .next t := by
  obtain ⟨d, hd⟩ := State.memRead_of_le hb hle
  simp only [State.seqPWel, hd]
  exact ⟨_, rfl⟩

theorem State.exists_seqRReady (hduty : s.DutyKept) (hop : s.eng.op = hostRead)
    (hle : s.eng.dst + s.eng.slen ≤ s.eng.length) : ∃ t, s.seqRReady = .next t := by
  have hsent : (s.send (readCacheFrame s.eng.col) s.eng.slen).bufferKept = true :=
    hduty.of_ledger (n := s.eng.nunits) (s.ledger_send (by simp) _) (.inl (by simpa using hop))
  simp only [State.seqRReady]
  cases hr : (s.send (readCacheFrame s.eng.col) s.eng.slen).reply with
  | transportError => exact ⟨_, rfl⟩
  | data d =>
    have hlen := State.send_readCache_reply s _ _ hr
    obtain ⟨u, hu⟩ := State.memWrite_of_le (i := s.eng.dst) (v := d) hsent (by simpa [hlen] using hle)
    simp only [hu]
    exact ⟨_, rfl⟩

/-- With its plan, its aim and its buffer, a request in flight has a next move. -/
theorem State.exists_seq (hplan : s.PlanStands) (haim : s.Aimed) (hduty : s.DutyKept) : ∃ t, s.seq = .next t := by
  cases hp : s.eng.pc with
  | pWel =>
    obtain ⟨hop, hplanned, -⟩ := hplan.running hostWrite (by rw [hp]; rfl)
    have hunit := hplan.inPlan (by rw [hp]; decide) (by rw [hp]; decide) (by rw [hp]; decide)
    rw [hplanned.units, State.plannedUnits, if_pos hop] at hunit
    simp only [State.seq, hp]
    exact State.exists_seqPWel (hduty (.inr hop)) (haim.program hp ▸ programUnit_le hunit)
  | rReady =>
    obtain ⟨hop, hplanned, -⟩ := hplan.running hostRead (by rw [hp]; rfl)
    have hunit := hplan.inPlan (by rw [hp]; decide) (by rw [hp]; decide) (by rw [hp]; decide)
    rw [hplanned.units, State.plannedUnits, if_neg (ne_erase_write_of_read hop).2] at hunit
    obtain ⟨hdst, hslen⟩ := haim.slice (.inr (.inr hp))
    have hle := sliceAt_le hplanned.nonempty hunit
    rw [← hdst, ← hslen] at hle
    simp only [State.seq, hp]
    exact State.exists_seqRReady hduty hop hle
  | _ =>
    simp only [State.seq, hp]
    exact ⟨_, rfl⟩

/-! #### The aim is kept -/

/-- A frame of a unit that does not end the request writes `pc` only. -/
theorem State.unitFrame_eng_of_pc {tx : List Byte} {next : Pc} (h : (s.unitFrame tx next).eng.pc ≠ .respond) :
    (s.unitFrame tx next).eng = { s.eng with pc := next } := by
  obtain ⟨-, hok, herr⟩ := s.unitFrame_spec tx next
  by_cases hr : (s.unitFrame tx next).reply = .transportError
  · rw [herr hr] at h
    exact absurd rfl h
  · exact hok hr

/-- A program unit that begins sets DST to its place in the buffer (R242). -/
theorem State.program_aim (hp : s.eng.pc = .pUnit) (h : s.seq = .next t) (ht : t.eng.pc ≠ .respond) :
    t.eng.dst = s.eng.unit * s.cfg.pageSize := by
  simp only [State.seq, hp, Host.Outcome.next.injEq, State.seqPUnit] at h
  subst h
  split at ht
  · rw [State.raiseCancelled_eng] at ht
    exact absurd rfl ht
  · rename_i hc
    rw [if_neg hc, State.unitFrame_eng_of_pc ht]

/-- A slice that begins is loaded into the registers (R205). -/
theorem State.slice_aim (hp : s.eng.pc = .rUnit) (h : s.seq = .next t) (ht : t.eng.pc ≠ .respond) :
    t.eng.dst = (sliceAt s.cfg s.eng.offset s.eng.length s.eng.unit).dst ∧
      t.eng.slen = (sliceAt s.cfg s.eng.offset s.eng.length s.eng.unit).lengthInPage := by
  simp only [State.seq, hp, Host.Outcome.next.injEq, State.seqRUnit] at h
  subst h
  split at ht
  · rw [State.raiseCancelled_eng] at ht
    exact absurd rfl ht
  · rename_i hc
    rw [if_neg hc, State.unitFrame_eng_of_pc ht]
    exact ⟨rfl, rfl⟩

/-- A status read that does not end the request leaves DST and SLEN. -/
theorem State.Polled.aim {polling : Pc} (h : s.Polled polling t) (hp : t.eng.pc ≠ .respond) :
    t.eng.dst = s.eng.dst ∧ t.eng.slen = s.eng.slen := by
  obtain ⟨-, heng | ⟨status, heng⟩⟩ := h
  · rw [heng] at hp
    exact absurd rfl hp
  · rw [heng]
    exact ⟨rfl, rfl⟩

/-- The await of a slice leaves DST and SLEN. -/
theorem State.slice_aim_kept (hp : s.eng.pc = .rPageLoaded ∨ s.eng.pc = .rBusy) (h : s.seq = .next t)
    (ht : t.eng.pc ≠ .respond) : t.eng.dst = s.eng.dst ∧ t.eng.slen = s.eng.slen := by
  rcases hp with hp | hp
  · simp only [State.seq, hp, Host.Outcome.next.injEq] at h
    subst h
    exact ((s.startAwait noMask).pollUnit_polled .rBusy).aim ht
  · simp only [State.seq, hp, Host.Outcome.next.injEq, State.seqRBusy, State.seqBusy] at h
    subst h
    split at ht
    · exact ⟨rfl, rfl⟩
    · exact ⟨rfl, rfl⟩
    · rw [State.abortUnit_eng] at ht
      exact absurd rfl ht
    · exact (s.wait.pollUnit_polled .rBusy).aim ht

/-- The states whose registers are aimed. -/
def aimedStates : List Pc := [.pWel, .rPageLoaded, .rBusy, .rReady]

/-- The moves into these states. -/
def aimedEdges : List (Pc × Pc) :=
  [(.pUnit, .pWel), (.rUnit, .rPageLoaded), (.rPageLoaded, .rBusy), (.rBusy, .rBusy), (.rBusy, .rReady)]

theorem State.AtLoop.not_aimed (h : s.AtLoop) : s.eng.pc ∉ aimedStates := by
  have hstates : ∀ p ∈ [Pc.eUnit, .pUnit, .rUnit, .respond], p ∉ aimedStates := by decide
  exact hstates _ h.pc_mem

/-- Into an aimed state leads one of these moves only, and it leaves UNIT. -/
theorem State.Flow.edge_of_aimed (h : s.Flow t) (hp : s.eng.pc.inFlight = true) (ht : t.eng.pc ∈ aimedStates) :
    (s.eng.pc, t.eng.pc) ∈ aimedEdges ∧ t.eng.unit = s.eng.unit := by
  have hedges : ∀ e ∈ unitEdges, e.2 ∈ aimedStates → e ∈ aimedEdges := by decide
  cases h with
  | rests out _ => rw [hp] at out; cases out
  | sends edge unit => exact ⟨hedges _ (unitFrameEdges_subset edge) ht, unit⟩
  | awaits edge unit => exact ⟨hedges _ (awaitEdges_subset edge) ht, unit⟩
  | settles edge unit => exact ⟨hedges _ (settledEdges_subset edge) ht, unit⟩
  | readies edge =>
    have hready : ∀ e ∈ readyEdges, e.2 ∉ aimedStates := by decide
    exact absurd ht (hready _ edge)
  | polls polling pc unit =>
    have hpolling : ∀ p ∈ pollingStates, p ∈ aimedStates → (p, p) ∈ aimedEdges := by decide
    rw [pc] at ht ⊢
    exact ⟨hpolling _ polling ht, unit⟩
  | loops _ _ loop | reads _ _ loop | recovers _ _ loop => exact absurd ht loop.not_aimed
  | disables _ pc | breaks _ pc | givesUp _ pc | cancels _ _ pc => simp [pc, aimedStates] at ht
  | responds _ result =>
    rw [result] at ht
    rcases s.respond_pc with hpc | hpc <;> rw [hpc] at ht <;> simp [aimedStates] at ht

theorem State.Aimed.takeMove (h : s.Aimed) : s.takeMove.Aimed := ⟨h.program, h.slice⟩

/-- Every move of a request in flight keeps the aim. -/
theorem State.Aimed.seq (hs : s.Aimed) (hp : s.eng.pc.inFlight = true) (h : s.seq = .next t) : t.Aimed := by
  have hledger := State.ledger_seq (exact := false) (by simp) h
  have hcfg : t.cfg = s.cfg := congrArg Ledger.cfg hledger
  have hoffset : t.eng.offset = s.eng.offset := congrArg Ledger.offset hledger
  have hlength : t.eng.length = s.eng.length := congrArg Ledger.length hledger
  have hedge := (State.flow_of_seq h).edge_of_aimed hp
  constructor
  · intro ht
    obtain ⟨hmem, hunit⟩ := hedge (by simp [aimedStates, ht])
    have hsource : s.eng.pc = .pUnit := by simpa [aimedEdges, ht] using hmem
    rw [State.program_aim hsource h (by rw [ht]; decide), hunit, hcfg]
  · intro ht
    obtain ⟨hmem, hunit⟩ := hedge (by rcases ht with ht | ht | ht <;> simp [aimedStates, ht])
    have hresponse : t.eng.pc ≠ .respond := by rcases ht with ht | ht | ht <;> rw [ht] <;> decide
    have hsource : s.eng.pc = .rUnit ∨ s.eng.pc = .rPageLoaded ∨ s.eng.pc = .rBusy := by
      rcases ht with ht | ht | ht <;> simp [aimedEdges, ht] at hmem <;> tauto
    rw [hcfg, hoffset, hlength, hunit]
    rcases hsource with hp | hp | hp
    · exact State.slice_aim hp h hresponse
    · obtain ⟨hdst, hslen⟩ := State.slice_aim_kept (.inl hp) h hresponse
      rw [hdst, hslen]
      exact hs.slice (.inl hp)
    · obtain ⟨hdst, hslen⟩ := State.slice_aim_kept (.inr hp) h hresponse
      rw [hdst, hslen]
      exact hs.slice (.inr (.inl hp))

theorem State.Begins.aimed (h : s.Begins t) : t.Aimed := by
  have hstates : t.eng.pc ∉ aimedStates := by
    rcases h.place with hp | ⟨hp, -⟩ | ⟨hloop, -⟩
    · rw [hp]; decide
    · rw [hp]; decide
    · exact hloop.not_aimed
  simp only [aimedStates, List.mem_cons, List.not_mem_nil, or_false, not_or] at hstates
  obtain ⟨hwel, hloaded, hbusy, hready⟩ := hstates
  exact ⟨fun hp => absurd hp hwel, fun hp => absurd hp (by simp [hloaded, hbusy, hready])⟩

/-! ### Every request is answered -/

/-- A request in flight that nothing can stop but its own end. -/
structure State.Unstoppable (s : State) : Prop where
  running : s.Running
  pollsBounded : s.PollsBounded
  planStands : s.PlanStands
  aimed : s.Aimed
  dutyKept : s.DutyKept

/-- The request that ran in the first state is answered in the second (R280). -/
structure State.AnsweredBy (s t : State) : Prop where
  pc : t.eng.pc = if s.eng.wasDead then .dead else .idle
  response : ∃ r, t.host.response = some r ∧ r.code = t.eng.result

theorem State.AtLoop.inFlight (h : s.AtLoop) : s.eng.pc.inFlight = true := by
  have hstates : ∀ p ∈ [Pc.eUnit, .pUnit, .rUnit, .respond], p.inFlight = true := by decide
  exact hstates _ h.pc_mem

/-- The only move out of flight is the response. -/
theorem State.Flow.answeredBy (h : s.Flow t) (hp : s.eng.pc.inFlight = true) (ht : t.eng.pc.inFlight = false) :
    s.AnsweredBy t := by
  have hedges : ∀ e ∈ unitEdges, e.2.inFlight = true := by decide
  cases h with
  | responds _ result => rw [result]; exact ⟨rfl, _, rfl, rfl⟩
  | rests out _ => rw [hp] at out; cases out
  | polls _ pc => rw [pc, hp] at ht; cases ht
  | disables _ pc | breaks _ pc | givesUp _ pc | cancels _ _ pc => rw [pc] at ht; cases ht
  | loops _ _ loop | reads _ _ loop | recovers _ _ loop => rw [loop.inFlight] at ht; cases ht
  | sends edge => rw [hedges _ (unitFrameEdges_subset edge)] at ht; cases ht
  | awaits edge => rw [hedges _ (awaitEdges_subset edge)] at ht; cases ht
  | readies edge => rw [hedges _ (readyEdges_subset edge)] at ht; cases ht
  | settles edge => rw [hedges _ (settledEdges_subset edge)] at ht; cases ht

/-- A request that nothing stops has a next move, pays for it, and goes on or is answered. -/
theorem State.Unstoppable.exists_transition (hs : s.Unstoppable) (hp : s.eng.pc.inFlight = true) :
    ∃ t, s.transition = .next t ∧ t.Unstoppable ∧ t.eng.wasDead = s.eng.wasDead ∧
      t.budget 1 + 1 ≤ s.budget 1 ∧ (t.eng.pc.inFlight = false → s.AnsweredBy t) := by
  obtain ⟨hrunning, hpolls, hplan, haim, hduty⟩ := hs
  obtain ⟨t, hseq⟩ := State.exists_seq hplan.takeMove haim.takeMove hduty
  have hmove : s.transition = .next t := by
    rw [State.transition_of_no_reset s (s.resetNow_of_noReset hrunning.noReset), hseq]
  have hledger := State.ledger_seq (exact := false) (by simp) hseq
  have hflow := State.flow_of_seq hseq
  have hduty' : t.DutyKept := State.DutyKept.of_ledger (s := s.takeMove) (n := s.eng.nunits) hduty hledger
  obtain ⟨hpolls', -, -, hpays⟩ := hrunning.pays (quiet := 1) hp hpolls hmove
  refine ⟨t, hmove, ?_, congrArg Ledger.wasDead hledger, ?_, fun ht => ?_⟩
  · exact ⟨(hrunning.seq_of_transition hp hmove).2, hpolls', hflow.planStands hp hplan.takeMove hledger,
      haim.takeMove.seq hp hseq, hduty'⟩
  · rcases hpays with ⟨-, hle⟩ | ⟨-, hle⟩ <;> exact hle
  · obtain ⟨hpc, hresponse⟩ := hflow.answeredBy hp ht
    exact ⟨hpc, hresponse⟩

/-- With fuel for its budget, a request that nothing stops runs to its response. -/
theorem runInFlight_answers {fuel : Nat} (hs : s.Unstoppable) (hp : s.eng.pc.inFlight = true)
    (hfuel : s.budget 1 ≤ fuel) : ∃ t, runInFlight fuel s = .next t ∧ s.AnsweredBy t := by
  induction fuel generalizing s with
  | zero =>
    obtain ⟨t, -, -, -, hbudget, -⟩ := hs.exists_transition hp
    omega
  | succ n ih =>
    obtain ⟨t, hmove, ht, hdead, hbudget, hanswer⟩ := hs.exists_transition hp
    rw [runInFlight_succ n hp hmove]
    cases htp : t.eng.pc.inFlight with
    | false => exact ⟨t, runInFlight_of_not_inFlight n htp, hanswer htp⟩
    | true =>
      obtain ⟨u, hrun, hpc, hresponse⟩ := ih ht htp (by omega)
      exact ⟨u, hrun, hdead ▸ hpc, hresponse⟩

theorem State.Begins.inFlight (h : s.Begins t) : t.eng.pc.inFlight = true := by
  rcases h.place with hp | ⟨hp, -⟩ | ⟨hloop, -⟩
  · rw [hp]; rfl
  · rw [hp]; rfl
  · exact hloop.inFlight

/-- An accepted request whose host keeps its duty and never resets is answered. -/
theorem State.runRequest_answers (hlimit : 1 ≤ s.cfg.pollLimit) (hreset : s.NoReset) (hduty : s.DutyKept) :
    ∃ t, s.dispatch.runRequest = .next t ∧ s.AnsweredBy t := by
  have hbegins := s.dispatch_begins
  have hdead : s.dispatch.eng.wasDead = s.eng.wasDead := congrArg Ledger.wasDead (hbegins.ledger false)
  have hfuel : s.dispatch.budget 1 ≤ s.dispatch.requestFuel := by
    have hbudget := hbegins.budget_le (quiet := 1)
    rw [loopBudget] at hbudget
    rw [State.requestFuel]
    nlinarith
  obtain ⟨t, hrun, hpc, hresponse⟩ := runInFlight_answers (s := s.dispatch)
    ⟨hbegins.running hreset, hbegins.pollsBounded hlimit, hbegins.planStands, hbegins.aimed,
      hduty.of_ledger (hbegins.ledger false)⟩
    hbegins.inFlight hfuel
  exact ⟨t, hrun, hdead ▸ hpc, hresponse⟩

/-- The buffer that a READ or WRITE passes keeps the duty at its acceptance. -/
theorem State.accept_dutyKept {i : Instr} {r : Request} (hi : encode i = .request r)
    (h : ∀ offset length buf, i = .read offset length buf ∨ i = .write offset length buf →
      ∃ k b, buf = some k ∧ s.host.bufs[k]? = some b ∧ b.length = length) : (s.accept r).DutyKept := by
  intro hop
  have hbuffer : ∃ k b, r.buf = some k ∧ s.host.bufs[k]? = some b ∧ b.length = r.length := by
    cases i with
    | read offset length buf => cases hi; exact h _ _ _ (.inl rfl)
    | write offset length buf => cases hi; exact h _ _ _ (.inr rfl)
    | geometry offset length buf => cases hi; simp [hostGeometry, hostRead, hostWrite] at hop
    | erase offset length buf => cases hi; simp [hostErase, hostRead, hostWrite] at hop
    | _ => cases hi
  obtain ⟨k, b, hbuf, hget, hlen⟩ := hbuffer
  simp [State.bufferKept_iff, State.buffer, hbuf, hget, hlen]

/-- The engine is in the ready state again in which it accepted the request. -/
theorem State.AnsweredBy.pc_of_accept {r : Request} (h : (s.accept r).AnsweredBy t) (hp : s.eng.pc.ready = true) :
    t.eng.pc = s.eng.pc := by
  have hpc := h.pc
  cases hs : s.eng.pc <;> simp [hs, Pc.ready] at hp hpc ⊢ <;> exact hpc

/-- Settles O52: a request in flight always has a next move, and its transitions are fewer than its fuel. -/
theorem everyRequestEndsReady : Obligations.EveryRequestEndsReady := by
  intro s i hv hp hs hi hbuffer
  obtain ⟨r, hr⟩ := encode_of_operation hi
  have hduty := State.accept_dutyKept hr hbuffer
  obtain ⟨t, hrun, hanswer⟩ := State.runRequest_answers (s := s.accept r) (pollLimit_pos hv) hs hduty
  obtain ⟨a, hresponse, hcode⟩ := hanswer.response
  have hpc := hanswer.pc_of_accept hp
  refine ⟨t, a, ?_, hpc, hresponse, hcode, ?_⟩
  · rw [exec_of_record hr hp, if_neg, hrun]
    rintro ⟨hop, hkept⟩
    rw [hduty hop] at hkept
    cases hkept
  · simp [State.verdict, hpc, hp]

end
end Sys2Proof.Machine
end

/-! ### The byte stores under the device's commands -/

section
namespace Sys2Proof.Machine

section
variable (s : State)

/-- DevCheck writes DFAULT only. -/
@[simp] theorem State.devCheck_dev : s.devCheck.dev = { s.dev with dfault := s.dev.busy || s.dev.dfault } := by
  unfold State.devCheck
  split <;> simp_all

@[simp] theorem State.devCheck_cfg : s.devCheck.cfg = s.cfg := (deviceStep_devCheck s).1

end

/-- A range of any value keeps the canonical form of both stores. -/
theorem State.CanonicalMemory.spoilArray {s : State} (h : s.CanonicalMemory) (lo n : Nat) :
    (s.spoilArray lo n).CanonicalMemory := ⟨Memory.wf_fill h.1 _ _ _, h.2⟩

theorem State.CanonicalMemory.eraseArray {s : State} (h : s.CanonicalMemory) (page : Nat) (ok : Bool) :
    (s.eraseArray page ok).CanonicalMemory := by
  unfold State.eraseArray
  split
  · exact ⟨Memory.wf_clear h.1 _ _, h.2⟩
  · exact h.spoilArray _ _

theorem State.CanonicalMemory.programArray {s : State} (h : s.CanonicalMemory) (page : Nat) (ok : Bool) :
    (s.programArray page ok).CanonicalMemory := by
  unfold State.programArray
  split
  · exact ⟨Memory.wf_fill h.1 _ _ _, h.2⟩
  · exact h.spoilArray _ _

/-- A completion keeps the canonical form: the array as its command leaves it, the cache filled anew (R140). -/
theorem State.CanonicalMemory.complete {s : State} (h : s.CanonicalMemory) : s.complete.CanonicalMemory := by
  have hcache (f : Nat → Byte) : (Memory.fill [] 0 s.cfg.pageSize f).wf := Memory.wf_fill Memory.wf_nil _ _ _
  have hdraw : State.CanonicalMemory { s with draws := s.draws.pastSucceeds } := h
  unfold State.complete
  split
  · exact h
  · exact ⟨h.1, hcache _⟩
  · exact ⟨(hdraw.eraseArray _ _).1, Memory.wf_fill Memory.wf_nil _ _ _⟩
  · exact ⟨(hdraw.programArray _ _).1, Memory.wf_fill Memory.wf_nil _ _ _⟩

theorem State.CanonicalMemory.maybeComplete {s : State} (h : s.CanonicalMemory) :
    s.maybeComplete.CanonicalMemory := by
  simp only [State.maybeComplete]
  split_ifs
  · exact State.CanonicalMemory.complete (s := { s with draws := s.draws.pastCompletes }) h
  · exact h
  · exact h

/-- ARRAY and CACHE. -/
def Device.stores (d : Device) : Memory × Memory := (d.array, d.cache)

theorem State.CanonicalMemory.of_stores {s t : State} (h : s.CanonicalMemory) (hst : t.dev.stores = s.dev.stores) :
    t.CanonicalMemory := by
  obtain ⟨harray, hcache⟩ := Prod.mk.inj hst
  rwa [State.CanonicalMemory, harray, hcache]

/-- Of the commands only the status read of 0xC0 and PLD write a store. -/
theorem deviceOf_stores (rx : Nat) {i : Instr} (hi : i ≠ .rdsr statusReg) (hpld : ∀ col data, i ≠ .pld col data)
    (s : State) : (deviceOf rx i s).2.dev.stores = s.dev.stores := by
  unfold Device.stores
  cases i with
  | rdid dummy n => simp only [deviceOf, devRdid, devReject]; split <;> simp
  | rdsr reg =>
    have hreg : reg ≠ statusReg := fun h => hi (by rw [h])
    simp only [deviceOf, devRdsr, if_neg hreg]; split <;> simp
  | wrsr reg value => simp only [deviceOf, devWrsr]; split <;> simp
  | wren => simp [deviceOf, devWren]
  | wrdi => simp [deviceOf, devWrdi]
  | prdc page => simp only [deviceOf, devPrdc]; split <;> simp
  | rdc col n => simp only [deviceOf, devRdc]; split <;> simp
  | pld col data => exact absurd rfl (hpld col data)
  | pex page => simp only [deviceOf, devPex]; split <;> simp
  | bers page => simp only [deviceOf, devBers]; split <;> simp
  | geometry | erase | read | write => simp [deviceOf, devReject]

/-- No command but the status read of 0xC0 writes ARRAY (R89). -/
theorem deviceOf_array (rx : Nat) {i : Instr} (hi : i ≠ .rdsr statusReg) (s : State) :
    (deviceOf rx i s).2.dev.array = s.dev.array := by
  cases i with
  | pld col data => simp only [deviceOf, devPld]; split <;> simp
  | _ => exact congrArg Prod.fst (deviceOf_stores rx hi (by simp) s)

/-- Every command keeps the canonical form of the stores. -/
theorem deviceOf_canonical (rx : Nat) (i : Instr) {s : State} (h : s.CanonicalMemory) :
    (deviceOf rx i s).2.CanonicalMemory := by
  cases i with
  | rdsr reg =>
    by_cases hreg : reg = statusReg
    · refine h.maybeComplete.of_stores ?_
      simp [deviceOf, devRdsr, hreg]
    · exact h.of_stores (deviceOf_stores rx (by simpa using hreg) (by simp) s)
  | pld col data =>
    refine ⟨(congrArg Memory.wf (deviceOf_array rx (by simp) s)).mpr h.1, ?_⟩
    simp only [deviceOf, devPld]
    split
    · simpa using h.2
    · exact Memory.wf_fill (Memory.wf_fill Memory.wf_nil _ _ _) _ _ _
  | _ => exact h.of_stores (deviceOf_stores rx (by simp) (by simp) s)

/-- The later state has canonical stores if the earlier one has. -/
def KeepsCanonicalMemory (s t : State) : Prop := s.CanonicalMemory → t.CanonicalMemory

/-- The canonical form follows the device: its commands and a spoiled range keep it. -/
theorem keepsCanonicalMemory_followsDevice : FollowsDevice KeepsCanonicalMemory where
  trans hst htu h := htu (hst h)
  quiet _ hd h := by rwa [State.CanonicalMemory, hd]
  spoilArray _ lo n h := h.spoilArray lo n
  command rx i _ h := deviceOf_canonical rx i h

/-- Settles O28: the stores change through the device's commands and spoiled ranges only, and these fill or filter. -/
theorem stepKeepsCanonicalMemory : Obligations.StepKeepsCanonicalMemory :=
  fun _ _ hs h => keepsCanonicalMemory_followsDevice.step h hs

/-! ### ARRAY, transport errors and device faults of the SPI commands -/

/-- A transaction whose device action leaves ARRAY leaves it too, lost or not. -/
theorem State.transact_array {device : State → List Byte × State}
    (hd : ∀ s : State, (device s).2.dev.array = s.dev.array) (s : State) :
    (s.transact device).dev.array = s.dev.array := by
  rcases s.transact_cases device with ⟨-, h⟩ | ⟨-, h⟩ | ⟨-, h⟩ <;> rw [h]
  · exact hd _
  · exact hd _

/-- Settles O11: a command is one transaction, and its device action leaves ARRAY. -/
theorem onlyRdsrOfTheSpiCommandsChangesTheArray : Obligations.OnlyRdsrOfTheSpiCommandsChangesTheArray :=
  fun s i hi hne => ⟨_, exec_command hi s, fun _ => by rw [State.transact_array (deviceOf_array 0 hne) s]⟩

/-- An error on which the device acted differs from an answer in the reply only. -/
theorem State.transact_errorActed {s : State} {device : State → List Byte × State}
    (h : s.draws.transportNow = .errorActed) :
    s.transact device =
      { State.transact { s with draws := { s.draws with transport := .answered :: s.draws.transport.tail } } device with
        reply := .transportError } := by
  have hanswered :
      Draws.transportNow { s.draws with transport := .answered :: s.draws.transport.tail } = .answered := rfl
  simp [State.transact, h, hanswered, Draws.pastTransport]

/-- Settles O12: both halves are read off the transaction. -/
theorem transportErrorsHideOnlyTheReply : Obligations.TransportErrorsHideOnlyTheReply := by
  intro s i hi
  refine ⟨fun hlost => ⟨_, exec_command hi s, ?_⟩, fun hacted => ⟨_, exec_command hi _, ?_, ?_⟩⟩
  · simp [State.transact, hlost]
  · simp [State.transact, Draws.transportNow]
  · rw [exec_command hi, State.transact_errorActed hacted]

/-- A command the device acts on sets DFAULT if its action does. -/
theorem exists_exec_dfault {s : State} {i : Instr} (hi : i.isCommand = true)
    (hs : s.draws.transportNow ≠ .errorIgnored)
    (h : (deviceOf 0 i { s with draws := s.draws.pastTransport }).2.dev.dfault = true) :
    ∃ t, exec i s = .next t ∧ t.dev.dfault = true :=
  ⟨_, exec_command hi s, by rw [State.transact_dev hs, h]⟩

/-- While BUSY = 1 every command but RDSR is a device fault (R129). -/
theorem deviceOf_dfault_of_busy (rx : Nat) {i : Instr} (hi : ∀ reg, i ≠ .rdsr reg) {s : State}
    (h : s.dev.busy = true) : (deviceOf rx i s).2.dev.dfault = true := by
  cases i with
  | rdid dummy n => simp only [deviceOf, devRdid, devReject]; split <;> simp [h]
  | rdsr reg => exact absurd rfl (hi reg)
  | wrsr reg value => simp only [deviceOf, devWrsr]; split <;> simp [h]
  | wren => simp [deviceOf, devWren, h]
  | wrdi => simp [deviceOf, devWrdi, h]
  | prdc page => simp only [deviceOf, devPrdc]; split <;> simp [h]
  | rdc col n => simp only [deviceOf, devRdc]; split <;> simp [h]
  | pld col data => simp only [deviceOf, devPld]; split <;> simp [h]
  | pex page => simp only [deviceOf, devPex]; split <;> simp [h]
  | bers page => simp only [deviceOf, devBers]; split <;> simp [h]
  | geometry | erase | read | write => simp [deviceOf, devReject]

/-- Settles O24: each condition is the fault branch of its command, behind DevCheck. -/
theorem deviceFaultConditions : Obligations.DeviceFaultConditions := by
  intro s hs
  refine ⟨fun hbusy i hi hne => ?_, fun hwel page => ⟨?_, ?_⟩, fun page hpage => ⟨?_, ?_, ?_⟩, fun col n hcol => ?_,
    fun col data hcol => ?_, fun reg value hreg => ?_⟩
  case refine_1 => exact exists_exec_dfault hi hs (deviceOf_dfault_of_busy 0 hne hbusy)
  all_goals refine exists_exec_dfault rfl hs ?_
  · simp [deviceOf, devBers, hwel]
  · simp [deviceOf, devPex, hwel]
  · simp [deviceOf, devPrdc, hpage]
  · simp [deviceOf, devBers, hpage]
  · simp [deviceOf, devPex, hpage]
  · simp [deviceOf, devRdc, hcol]
  · simp [deviceOf, devPld, hcol]
  · have hother : reg ≠ protectReg := hreg
    simp [deviceOf, devWrsr, hother]

/-! ### Malformed frames -/

/-- What decodes has its opcode's shape, or is an RDID of another shape than the configured one. -/
theorem decodeFrame_shape (c : Config) {f : Frame} {i : Instr} (h : decodeFrame f = .ok i) :
    f.HasItsShape c ∨ ∃ dummy, i = .rdid dummy f.rx ∧ ¬ (dummy = c.rdidDummyBytes ∧ f.rx = c.rdidRxLen) := by
  unfold decodeFrame at h
  unfold Frame.HasItsShape
  split at h
  · cases h
  · rename_i opc rest htx
    rw [htx]
    split_ifs at h with h1 h2 h3 h4 h5 h6 h7 h8 h9 h10
    · obtain ⟨hrest, rfl⟩ := readId_ok h
      by_cases hshape : rest.length = c.rdidDummyBytes ∧ f.rx = c.rdidRxLen
      · rw [hshape.1] at hrest
        simp [h1, hrest, hshape.2, opcRdid]
      · exact .inr ⟨_, rfl, hshape⟩
    · obtain ⟨reg, hrest, hrx, -⟩ := readRreg_ok h
      simp [h2, hrest, hrx, opcRdsr]
    · obtain ⟨reg, value, hrest, hrx, -⟩ := readWreg_ok h
      simp [h3, hrest, hrx, opcWrsr]
    · obtain ⟨hrest, hrx, -⟩ := readOp_ok h
      simp [h4, hrest, hrx, opcWren]
    · obtain ⟨hrest, hrx, -⟩ := readOp_ok h
      simp [h5, hrest, hrx, opcWrdi]
    · obtain ⟨hi, lo, hrest, hrx, -⟩ := readPage_ok h
      simp [h6, hrest, hrx, opcPrdc]
    · obtain ⟨hi, lo, hrest, hrx, -⟩ := readRcache_ok h
      simp [h7, hrest, Nat.one_le_iff_ne_zero.2 hrx, opcRdc]
    · obtain ⟨hi, lo, data, hrest, hrx, -⟩ := readWcache_ok h
      simp [h8, hrest, hrx, opcPld]
    · obtain ⟨hi, lo, hrest, hrx, -⟩ := readPage_ok h
      simp [h9, hrest, hrx, opcPex]
    · obtain ⟨hi, lo, hrest, hrx, -⟩ := readPage_ok h
      simp [h10, hrest, hrx, opcBers]

/-- A rejected frame writes DFAULT only. -/
theorem devReject_dev (rx : Nat) (s : State) : (devReject rx s).2.dev = { s.dev with dfault := true } := by
  simp [devReject]

/-- A step takes the frame on the port to the device, be it a command or not. -/
theorem step_of_frame {s : State} {f : Frame} (hv : s.cfg.valid = true) (hf : s.framePort = some f) :
    ∃ device, step s = .next (State.transact { s with framePort := none } device) ∧
      ((∃ i, decodeFrame f = .ok i ∧ device = deviceOf 0 i) ∨
        (∃ e, decodeFrame f = .error e) ∧ device = devReject f.rx) := by
  rw [step, fetch_of_frame hv hf]
  cases hd : decodeFrame f with
  | ok i =>
    rw [fetchFrame_of_ok hd]
    exact ⟨_, exec_command (decodeFrame_isCommand hd) _, .inl ⟨i, rfl, rfl⟩⟩
  | error e =>
    rw [fetchFrame_of_error hd]
    exact ⟨_, rfl, .inr ⟨⟨e, rfl⟩, rfl⟩⟩

/-- Settles O9: the decoder rejects a malformed frame or reads an RDID of another shape, and either is rejected by the
device. -/
theorem malformedFramesAreDeviceFaults : Obligations.MalformedFramesAreDeviceFaults := by
  intro s f hv hf hs hbad
  obtain ⟨device, hstep, ⟨i, hd, rfl⟩ | ⟨-, rfl⟩⟩ := step_of_frame hv hf
  · refine ⟨_, hstep, ?_⟩
    obtain ⟨dummy, rfl, hne⟩ : ∃ dummy, i = .rdid dummy f.rx ∧
        ¬ (dummy = s.cfg.rdidDummyBytes ∧ f.rx = s.cfg.rdidRxLen) := by
      rcases hbad with hbad | ⟨e, he⟩
      · exact (decodeFrame_shape s.cfg hd).resolve_left hbad
      · rw [hd] at he
        cases he
    rw [State.transact_dev (s := { s with framePort := none }) hs, deviceOf, devRdid, if_neg hne, devReject_dev]
  · exact ⟨_, hstep, by rw [State.transact_dev (s := { s with framePort := none }) hs, devReject_dev]⟩

end Sys2Proof.Machine
end

/-! ### The bounds of a planned unit

A valid configuration has whole pages and blocks (R10), so the page of every unit of a plan is a page of the device, and
every slice fits its page. -/

section
namespace Sys2Proof.Machine

section
variable {c : Config}

theorem isPowerOfTwo_pos {n : Nat} (h : isPowerOfTwo n = true) : 0 < n := by
  rw [← eq_of_beq h]
  exact Nat.two_pow_pos _

/-- What R10 gives the arithmetic of units. -/
structure Regular (c : Config) : Prop where
  pageSize_pos : 0 < c.pageSize
  blockSize_pos : 0 < c.blockSize
  pageSize_le : c.pageSize ≤ 65536
  numPages_le : c.numPages ≤ 65536
  wholePages : c.numPages * c.pageSize = c.totalSize

theorem regular_of_valid (h : c.valid = true) : Regular c := by
  simp only [Config.valid, Bool.and_eq_true, decide_eq_true_eq, beq_iff_eq] at h
  obtain ⟨⟨⟨⟨⟨⟨⟨⟨-, hpage⟩, hblock⟩, hsize⟩, hpages⟩, -⟩, hwhole⟩, -⟩, -⟩ := h
  have hdvd : c.pageSize ∣ c.totalSize := (Dvd.intro c.pagesPerBlock rfl).trans (Nat.dvd_of_mod_eq_zero hwhole)
  exact ⟨isPowerOfTwo_pos hpage, isPowerOfTwo_pos hblock, hsize, hpages, Nat.div_mul_cancel hdvd⟩

/-- A plan never has more units than the request spans pages (R195, R199, R203). -/
theorem programUnits_le_spannedPages (hpage : 0 < c.pageSize) (offset : Nat) {length : Nat} (hlength : 0 < length) :
    programUnits c length ≤ spannedPages c offset length := by
  have hsum : offset / c.pageSize + (length - 1) / c.pageSize ≤ (offset + length - 1) / c.pageSize := by
    rw [Nat.add_sub_assoc hlength]
    exact Nat.div_add_div_le_add_div
  have hunits : length / c.pageSize ≤ (length - 1) / c.pageSize + 1 := by
    rw [← Nat.add_div_right _ hpage]
    exact Nat.div_le_div_right (by omega)
  unfold programUnits spannedPages
  omega

/-- The last page of the request bounds every unit. -/
theorem unitPage_le {offset length unit : Nat} (hlength : 0 < length) (h : unit < spannedPages c offset length) :
    unitPage c offset unit ≤ (offset + length - 1) / c.pageSize := by
  have hspan : offset / c.pageSize ≤ (offset + length - 1) / c.pageSize := Nat.div_le_div_right (by omega)
  unfold spannedPages at h
  unfold unitPage
  omega

theorem unitPage_lt_numPages {offset length unit : Nat} (hc : Regular c) (hrange : inRange c offset length = true)
    (hlength : 0 < length) (h : unit < spannedPages c offset length) : unitPage c offset unit < c.numPages := by
  simp only [inRange, Bool.and_eq_true, decide_eq_true_eq] at hrange
  refine lt_of_le_of_lt (unitPage_le hlength h) ((Nat.div_lt_iff_lt_mul hc.pageSize_pos).2 ?_)
  rw [hc.wholePages]
  omega

/-- A slice is not empty and fits its page (R203). -/
theorem sliceAt_fits {offset length unit : Nat} (hpage : 0 < c.pageSize) (hlength : 0 < length)
    (h : unit < spannedPages c offset length) :
    1 ≤ (sliceAt c offset length unit).lengthInPage ∧
      (sliceAt c offset length unit).columnOffset + (sliceAt c offset length unit).lengthInPage ≤ c.pageSize := by
  have hfirst : offset < (offset / c.pageSize + unit + 1) * c.pageSize := by
    refine lt_of_lt_of_le (Nat.lt_mul_of_div_lt (Nat.lt_succ_self _) hpage) (Nat.mul_le_mul_right _ ?_)
    omega
  have hlast : (offset / c.pageSize + unit) * c.pageSize ≤ offset + length - 1 :=
    le_trans (Nat.mul_le_mul_right _ (unitPage_le hlength h)) (Nat.div_mul_le_self _ _)
  have hnext : (offset / c.pageSize + unit + 1) * c.pageSize =
      (offset / c.pageSize + unit) * c.pageSize + c.pageSize := Nat.succ_mul _ _
  simp only [sliceAt]
  omega

end

section
variable {s : State}

/-- The checks of every operation include the range (R191). -/
theorem State.Planned.inRange (h : s.Planned) : inRange s.cfg s.eng.offset s.eng.length = true := by
  have hchecks := h.checks
  unfold State.checksPass at hchecks
  split_ifs at hchecks
  · exact (Bool.and_eq_true_iff.1 hchecks).1
  · exact (Bool.and_eq_true_iff.1 hchecks).1
  · exact hchecks

/-- A unit of the plan is one of the pages that the request spans. -/
theorem State.Planned.lt_spannedPages (h : s.Planned) (hc : Regular s.cfg) {unit : Nat} (hunit : unit < s.eng.nunits) :
    unit < spannedPages s.cfg s.eng.offset s.eng.length := by
  rw [h.units, State.plannedUnits] at hunit
  split at hunit
  · exact lt_of_lt_of_le hunit (programUnits_le_spannedPages hc.pageSize_pos _ h.nonempty)
  · exact hunit

/-- The page of a unit of the plan is a page of the device (R351). -/
theorem State.Planned.unitPage_lt (h : s.Planned) (hc : Regular s.cfg) {unit : Nat} (hunit : unit < s.eng.nunits) :
    unitPage s.cfg s.eng.offset unit < s.cfg.numPages :=
  unitPage_lt_numPages hc h.inRange h.nonempty (h.lt_spannedPages hc hunit)

end

end Sys2Proof.Machine
end

/-! ### What a completion and a frame leave of the device -/

section
namespace Sys2Proof.Machine

/-- The addresses of ARRAY that a pending command writes when it completes (R65, R81, R82): a load none. -/
def Pending.Writes (c : Config) (p : Pending) (a : Nat) : Prop :=
  match p with
  | .load _ => False
  | .erase page => blockBase c page ≤ a ∧ a < blockBase c page + c.blockSize
  | .program page => pageBase c page ≤ a ∧ a < pageBase c page + c.pageSize

/-- What the completion of a pending command leaves of the device (R140). -/
structure Device.Completed (c : Config) (p : Pending) (d d' : Device) : Prop where
  idle : d'.pending = none
  settings : d'.settings = d.settings
  outside : ∀ a, ¬ p.Writes c a → d'.array.read a = d.array.read a
  load : ∀ page, p = .load page → d' = { d with cache := d'.cache, pending := none }

section
variable (s : State)

theorem State.read_spoilArray_of_not_mem {lo n a : Nat} (h : ¬ (lo ≤ a ∧ a < lo + n)) :
    (s.spoilArray lo n).dev.array.read a = s.dev.array.read a := by
  rw [State.spoilArray_dev, Memory.read_fill, if_neg h]

theorem State.eraseArray_outside {page a : Nat} (ok : Bool) (h : ¬ (Pending.erase page).Writes s.cfg a) :
    (s.eraseArray page ok).dev.array.read a = s.dev.array.read a := by
  unfold State.eraseArray
  split
  · exact (Memory.read_clear _ _ _ _).trans (if_neg h)
  · exact s.read_spoilArray_of_not_mem h

theorem State.programArray_outside {page a : Nat} (ok : Bool) (h : ¬ (Pending.program page).Writes s.cfg a) :
    (s.programArray page ok).dev.array.read a = s.dev.array.read a := by
  unfold State.programArray
  split
  · exact (Memory.read_fill _ _ _ _ _).trans (if_neg h)
  · exact s.read_spoilArray_of_not_mem h

theorem State.complete_completed {p : Pending} (h : s.dev.pending = some p) :
    Device.Completed s.cfg p s.dev s.complete.dev := by
  have hsettings := s.complete_settings
  cases p with
  | load page =>
    have hcomplete : s.complete = s.completeLoad page := by simp [State.complete, h]
    rw [hcomplete] at hsettings ⊢
    exact ⟨rfl, hsettings, fun _ _ => rfl, fun _ _ => rfl⟩
  | erase page =>
    have hcomplete : s.complete = s.completeErase page := by simp [State.complete, h]
    rw [hcomplete] at hsettings ⊢
    exact ⟨rfl, hsettings, fun _ ha => State.eraseArray_outside { s with draws := s.draws.pastSucceeds } _ ha, nofun⟩
  | program page =>
    have hcomplete : s.complete = s.completeProgram page := by simp [State.complete, h]
    rw [hcomplete] at hsettings ⊢
    exact ⟨rfl, hsettings, fun _ ha => State.programArray_outside { s with draws := s.draws.pastSucceeds } _ ha,
      nofun⟩

/-- The device is busy with a pending command. -/
theorem Device.busy_iff {d : Device} : d.busy = true ↔ ∃ p, d.pending = some p := Option.isSome_iff_exists

/-- Before a status read the device stays as it is, or its pending command completes (R80 (a), R131). -/
theorem State.maybeComplete_cases : s.maybeComplete.dev = s.dev ∨
    ∃ p, s.dev.pending = some p ∧ Device.Completed s.cfg p s.dev s.maybeComplete.dev := by
  simp only [State.maybeComplete]
  split_ifs with hbusy
  · obtain ⟨p, hp⟩ := Device.busy_iff.1 hbusy
    exact .inr ⟨p, hp, State.complete_completed { s with draws := s.draws.pastCompletes } hp⟩
  · exact .inl rfl
  · exact .inl rfl

/-! #### The engine's frames -/

/-- However the device takes the frame in `s`, what it leaves of itself is in `D`. -/
def State.Acts (tx : List Byte) (rx : Nat) (D : Device → Prop) : Prop :=
  ∀ w : State, w.cfg = s.cfg → w.dev = s.dev → D (deviceReceives ⟨tx, rx⟩ w).2.dev

/-- A frame is acted on, or it is lost: then the device is as before, and the engine sees the error. -/
theorem State.send_dev {tx : List Byte} {rx : Nat} {D : Device → Prop} (h : s.Acts tx rx D) :
    D (s.send tx rx).dev ∨ (s.send tx rx).dev = s.dev ∧ (s.send tx rx).reply = .transportError := by
  unfold State.send
  rcases State.transact_cases { s with trace := s.trace ++ [.frame tx rx] } (deviceReceives ⟨tx, rx⟩)
    with ⟨-, ht⟩ | ⟨-, ht⟩ | ⟨-, ht⟩ <;> rw [ht]
  · exact .inl (h _ rfl rfl)
  · exact .inl (h _ rfl rfl)
  · exact .inr ⟨rfl, rfl⟩

/-- A status read lets the pending command complete, and its byte shows BUSY as it then is (R35, R131). -/
theorem devRdsr_status (hfault : s.dev.dfault = false) :
    (devRdsr statusReg s).2.dev = s.maybeComplete.dev ∧
      ∃ b, (devRdsr statusReg s).1 = [b] ∧ busyBit b = s.maybeComplete.dev.busy := by
  refine ⟨by simp [devRdsr], statusByte s.maybeComplete.dev s.maybeComplete.draws.byteNow, ?_,
    (statusByte_bits _ _).1⟩
  simp [devRdsr, State.answer, hfault]

/-- The engine's status read: what it leaves of the device, and what the engine sees. -/
theorem State.send_status (hfault : s.dev.dfault = false) :
    let t := s.send [opcRdsr, statusReg] 1
    (t.dev = s.dev ∨ ∃ p, s.dev.pending = some p ∧ Device.Completed s.cfg p s.dev t.dev) ∧
      (t.reply = .transportError ∨ ∃ b, t.reply = .data [b] ∧ busyBit b = t.dev.busy) := by
  set w : State := { s with trace := s.trace ++ [.frame [opcRdsr, statusReg] 1], draws := s.draws.pastTransport }
  obtain ⟨hdev, b, hb, hbusy⟩ := devRdsr_status w hfault
  have hcases := w.maybeComplete_cases
  rw [← hdev] at hbusy hcases
  simp only [State.send, deviceReceives_rdsr]
  rcases State.transact_cases { s with trace := s.trace ++ [.frame [opcRdsr, statusReg] 1] } (devRdsr statusReg)
    with ⟨-, ht⟩ | ⟨-, ht⟩ | ⟨-, ht⟩ <;> rw [ht]
  · exact ⟨hcases, .inr ⟨b, congrArg Reply.data hb, hbusy⟩⟩
  · exact ⟨hcases, .inl rfl⟩
  · exact ⟨.inl rfl, .inl rfl⟩

variable {s : State}

/-- WREN sets the latch of an idle device (R133). -/
theorem State.acts_wren (hidle : s.dev.busy = false) : s.Acts [opcWren] 0 (· = { s.dev with wel := true }) := by
  intro w _ hdev
  simp [devWren, hdev, hidle]

/-- WRDI clears it (R134). -/
theorem State.acts_wrdi (hidle : s.dev.busy = false) : s.Acts [opcWrdi] 0 (· = { s.dev with wel := false }) := by
  intro w _ hdev
  simp [devWrdi, hdev, hidle]

/-- The bring-up frame clears BP (R132, R342). -/
theorem State.acts_wrsr (hidle : s.dev.busy = false) :
    s.Acts [opcWrsr, protectReg, 0x00] 0 (· = { s.dev with bp := 0x00 }) := by
  intro w _ hdev
  simp [devWrsr, hdev, hidle]

/-- PRDC of a page of the device starts the load (R135). -/
theorem State.acts_prdc (hidle : s.dev.busy = false) {page : Nat} (hpage : page < s.cfg.numPages)
    (hc : Regular s.cfg) : s.Acts (pageFrame opcPrdc page) 0 (· = { s.dev with pending := some (.load page) }) := by
  intro w hcfg hdev
  have hfield := field16_toNat (hpage.trans_le hc.numPages_le)
  simp [devPrdc, hcfg, hdev, hidle, hfield, hpage.not_ge]

/-- BERS with WEL = 1 starts the erase (R138). -/
theorem State.acts_bers (hidle : s.dev.busy = false) (hwel : s.dev.wel = true) {page : Nat}
    (hpage : page < s.cfg.numPages) (hc : Regular s.cfg) :
    s.Acts (pageFrame opcBers page) 0 (· = { s.dev with pending := some (.erase page) }) := by
  intro w hcfg hdev
  have hfield := field16_toNat (hpage.trans_le hc.numPages_le)
  simp [devBers, hcfg, hdev, hidle, hwel, hfield, hpage.not_ge]

/-- PEX with WEL = 1 starts the program (R139). -/
theorem State.acts_pex (hidle : s.dev.busy = false) (hwel : s.dev.wel = true) {page : Nat}
    (hpage : page < s.cfg.numPages) (hc : Regular s.cfg) :
    s.Acts (pageFrame opcPex page) 0 (· = { s.dev with pending := some (.program page) }) := by
  intro w hcfg hdev
  have hfield := field16_toNat (hpage.trans_le hc.numPages_le)
  simp [devPex, hcfg, hdev, hidle, hwel, hfield, hpage.not_ge]

/-- PLD of a page's data at column 0 fills CACHE (R137). -/
theorem State.acts_pld (hidle : s.dev.busy = false) {data : List Byte} (hlen : data.length ≤ s.cfg.pageSize) :
    s.Acts (opcPld :: 0x00 :: 0x00 :: data) 0 (fun d => d = { s.dev with cache := d.cache }) := by
  intro w hcfg hdev
  rw [deviceReceives_pld]
  simp [devPld, hcfg, hdev, hidle, hlen.not_gt]

/-- RDC within the page reads only (R136). -/
theorem State.acts_rdc (hidle : s.dev.busy = false) {col n : Nat} (hn : 1 ≤ n) (hle : col + n ≤ s.cfg.pageSize)
    (hc : Regular s.cfg) : s.Acts (readCacheFrame col) n (· = s.dev) := by
  intro w hcfg hdev
  have hpage := hc.pageSize_le
  have hfield : (field16 col).toNat = col := field16_toNat (by omega)
  rw [deviceReceives_rdc col n (by omega)]
  simp [devRdc, hcfg, hdev, hidle, hfield, hle.not_gt]

end

end Sys2Proof.Machine
end

/-! ### Engine and device stay in step

`State.StaysInStep` says once what a move of the sequencer does to the device, where the protocol stands before it, and
that the protocol's clauses about the device stand behind it. -/

section
namespace Sys2Proof.Machine

/-- The states of a unit behind its boundary: PAGE holds the unit's page. -/
def insideStates : List Pc :=
  [.eWel, .eCmd, .eBusy, .pWel, .pLoaded, .pCmd, .pBusy, .rPageLoaded, .rBusy, .rReady]

/-- The states of a unit in progress. -/
def unitStates : List Pc := [.eUnit, .pUnit, .rUnit] ++ insideStates

/-- The states between the frames of units: they prepare no frame. -/
def stillStates : List Pc :=
  [.idle, .dead, .eUnit, .pUnit, .rUnit, .eReady, .pReady, .eFailed, .pFailed, .wrdi, .respond]

/-- The page that the move of the unit in progress works on: at the boundary it is still to be written to PAGE. -/
def State.currentPage (s : State) : Nat :=
  if s.eng.pc.unitBoundary then unitPage s.cfg s.eng.offset s.eng.unit else s.eng.page

/-- The device command that a unit of an operation runs on a page. -/
def commandOf (op : Byte) (page : Nat) : Pending :=
  if op = hostErase then .erase page else if op = hostWrite then .program page else .load page

/-- What a move of the sequencer can leave of the device of `s`. -/
inductive State.Effect (s : State) : Device → Prop where
  /-- the device itself: no frame reached it, or one that only reads -/
  | still : s.Effect s.dev
  /-- a WRSR, WREN or WRDI wrote a latch -/
  | latches (bp : Byte) (wel : Bool) (place : s.eng.pc ∈ [Pc.bringup, .eUnit, .pUnit, .wrdi]) :
      s.Effect { s.dev with bp := bp, wel := wel }
  /-- a PLD filled the cache -/
  | loads (cache : Memory) : s.Effect { s.dev with cache := cache }
  /-- the unit's command started -/
  | starts (place : s.eng.pc ∈ unitStates) :
      s.Effect { s.dev with pending := some (commandOf s.eng.op s.currentPage) }
  /-- the pending command completed -/
  | completes {p : Pending} {d : Device} (pending : s.dev.pending = some p)
      (completed : Device.Completed s.cfg p s.dev d) : s.Effect d
  /-- beside that, the bytes of an erase or program unit that ends unsettled became any value -/
  | spoils {d : Device} (array : Memory) (before : s.Effect d) (place : s.eng.pc ∈ unitStates)
      (writing : s.eng.op ≠ hostRead)
      (outside : ∀ a, ¬ (commandOf s.eng.op s.currentPage).Writes s.cfg a → array.read a = d.array.read a) :
      s.Effect { d with array := array }

/-- The slice in the registers is not empty and fits its page (R70, R353). -/
def State.SliceFits (s : State) : Prop := 1 ≤ s.eng.slen ∧ s.eng.col + s.eng.slen ≤ s.cfg.pageSize

/-- What a move of the sequencer from `s` to `t` does to the device, and what engine and device know behind it. -/
structure State.StaysInStep (s t : State) : Prop where
  effect : s.Effect t.dev
  idleWhenKnown : t.DeviceIdleWhenKnown
  frameReady : t.FrameReady
  unit : t.eng.pc ∈ insideStates →
    s.eng.pc ∈ unitStates ∧ t.eng.unit = s.eng.unit ∧ t.eng.page = s.currentPage

/-- The registers of `u` are those of the unit in progress in `s`, of a request that found the engine alive. -/
structure State.InUnitOf (s u : State) : Prop where
  place : s.eng.pc ∈ unitStates
  cfg : u.cfg = s.cfg
  op : u.eng.op = s.eng.op
  page : u.eng.page = s.currentPage
  unit : u.eng.unit = s.eng.unit
  alive : u.eng.wasDead = false

section
variable {s t u w : State}

/-- No move of the engine makes a device fault (R84). -/
theorem State.Effect.dfault {d : Device} (h : s.Effect d) : d.dfault = s.dev.dfault := by
  induction h with
  | completes _ completed => exact congrArg Prod.fst completed.settings
  | spoils _ _ _ _ _ ih => exact ih
  | _ => rfl

theorem State.deviceIdleWhenKnown_of_idle (h : s.dev.busy = false) : s.DeviceIdleWhenKnown := by
  unfold State.DeviceIdleWhenKnown
  split <;> simp [h]

/-- A response with MAYBE_BUSY set, of an engine that was alive, knows nothing of the device (R309). -/
theorem State.deviceIdleWhenKnown_of_unsettled (hp : s.eng.pc = .respond) (hmaybe : s.eng.maybeBusy = true)
    (halive : s.eng.wasDead = false) : s.DeviceIdleWhenKnown := by
  simp [State.DeviceIdleWhenKnown, hp, hmaybe, halive]

theorem State.frameReady_of_still (h : s.eng.pc ∈ stillStates) : s.FrameReady := by
  unfold State.FrameReady
  cases hp : s.eng.pc <;> simp_all [stillStates]

/-- Before a frame that needs WEL, it is set, and PAGE holds a page of the device (R351, R352). -/
theorem State.FrameReady.enabled (h : s.FrameReady) (hp : s.eng.pc ∈ [Pc.eWel, .pWel, .pLoaded]) :
    s.dev.wel = true ∧ s.eng.page < s.cfg.numPages := by
  unfold State.FrameReady at h
  cases hpc : s.eng.pc <;> simp_all

/-- From the load of a slice to its read, the slice in the registers fits its page (R353). -/
theorem State.FrameReady.sliceFits (h : s.FrameReady) (hp : s.eng.pc ∈ [Pc.rPageLoaded, .rBusy, .rReady]) :
    s.SliceFits := by
  unfold State.FrameReady at h
  unfold State.SliceFits
  cases hpc : s.eng.pc <;> simp_all

theorem not_mem_insideStates {p : Pc} (h : p ∈ stillStates) : p ∉ insideStates := by
  revert h; revert p; decide

theorem State.AtLoop.mem_still (h : s.AtLoop) : s.eng.pc ∈ stillStates := by
  have hstates : ∀ p ∈ [Pc.eUnit, .pUnit, .rUnit, .respond], p ∈ stillStates := by decide
  exact hstates _ h.pc_mem

/-- An await settles on a status byte with the busy bit clear only (R172). -/
theorem busyBit_of_settle {e : Engine} {limit : Nat} (h : settle e limit = .ok ∨ settle e limit = .failed) :
    busyBit e.status = false := by
  unfold settle at h
  split_ifs at h <;> simp_all

/-- A buffer write touches no byte of the device. -/
theorem State.memWrite_dev {i : Nat} {v : List Byte} (h : s.memWrite i v = some t) : t.dev = s.dev := by
  unfold State.memWrite at h
  split at h
  · cases h
  · split at h
    · cases h; exact (s.setBuffer_rest _).2.2.1
    · cases h

theorem State.memRead_length_le {i n : Nat} {d : List Byte} (h : s.memRead i n = some d) : d.length ≤ n := by
  unfold State.memRead at h
  split at h
  · cases h
  · split at h
    · cases h; exact List.length_take_le _ _
    · cases h

theorem State.loopTest_dev (s : State) : s.loopTest.dev = s.dev := by
  unfold State.loopTest
  split <;> rfl

/-- The end of an unsettled unit: of a READ it touches no byte of ARRAY, of another operation those of its unit. -/
theorem State.spoilUnit_cases (s : State) : s.spoilUnit.dev = s.dev ∨ s.eng.op ≠ hostRead ∧
    ∃ m, s.spoilUnit.dev = { s.dev with array := m } ∧
      ∀ a, ¬ (commandOf s.eng.op s.eng.page).Writes s.cfg a → m.read a = s.dev.array.read a := by
  unfold State.spoilUnit commandOf
  split_ifs with he hw hr
  · exact .inr ⟨by rw [he]; decide, _, rfl, fun _ ha => s.read_spoilArray_of_not_mem ha⟩
  · exact .inr ⟨by rw [hw]; decide, _, rfl, fun _ ha => s.read_spoilArray_of_not_mem ha⟩
  · exact .inl (s.spoilBuffer_rest _).2.2.1
  · exact .inl rfl

namespace State.StaysInStep

/-- A move to a state that prepares no frame, with a device that is idle behind it. -/
theorem of_idle (heff : s.Effect t.dev) (hidle : t.dev.busy = false) (hp : t.eng.pc ∈ stillStates) :
    s.StaysInStep t :=
  ⟨heff, State.deviceIdleWhenKnown_of_idle hidle, State.frameReady_of_still hp,
    fun hw => absurd hw (not_mem_insideStates hp)⟩

/-- A move that leaves the idle device alone. -/
theorem of_quiet (hidle : s.dev.busy = false) (hdev : t.dev = s.dev) (hp : t.eng.pc ∈ stillStates) :
    s.StaysInStep t := of_idle (hdev ▸ .still) (hdev ▸ hidle) hp

/-- A move to the response with MAYBE_BUSY set. -/
theorem of_unsettled (heff : s.Effect t.dev) (hp : t.eng.pc = .respond) (hmaybe : t.eng.maybeBusy = true)
    (halive : t.eng.wasDead = false) : s.StaysInStep t := by
  have hstill : t.eng.pc ∈ stillStates := by rw [hp]; decide
  exact ⟨heff, State.deviceIdleWhenKnown_of_unsettled hp hmaybe halive, State.frameReady_of_still hstill,
    fun hw => absurd hw (not_mem_insideStates hstill)⟩

/-- A unit that ends in TIMEOUT or TRANSPORT_ERROR. -/
theorem abortUnit (h : s.InUnitOf w) {e : ErrorCode} (he : e.leavesBusy = true) (heff : s.Effect w.dev) :
    s.StaysInStep (w.abortUnit e) := by
  refine of_unsettled ?_ (by simp) (by simp [he]) (by simpa using h.alive)
  rcases w.spoilUnit_cases with hdev | ⟨hop, m, hdev, hread⟩
  · exact (show (w.abortUnit e).dev = w.dev from hdev) ▸ heff
  · rw [show (w.abortUnit e).dev = { w.dev with array := m } from hdev]
    rw [h.op, h.page, h.cfg] at hread
    exact .spoils m heff h.place (h.op ▸ hop) hread

/-- A frame of a unit: acted on with an effect in `D`, or lost. -/
theorem unitFrame {tx : List Byte} {next : Pc} {D : Device → Prop} (h : s.InUnitOf u) (hdev : u.dev = s.dev)
    (hacts : u.Acts tx 0 D) (heff : ∀ d, D d → s.Effect d)
    (hnext : ∀ w : State, w.cfg = u.cfg → w.eng = { u.eng with pc := next } → D w.dev →
      w.DeviceIdleWhenKnown ∧ w.FrameReady) : s.StaysInStep (u.unitFrame tx next) := by
  have hsent : s.InUnitOf (u.send tx 0) :=
    ⟨h.place, by simp [h.cfg], by simp [h.op], by simp [h.page], by simp [h.unit], by simp [h.alive]⟩
  have hcases := u.send_dev hacts
  have heffect : s.Effect (u.send tx 0).dev := by
    rcases hcases with hd | ⟨hd, -⟩
    · exact heff _ hd
    · rw [hd, hdev]; exact .still
  simp only [State.unitFrame]
  cases hr : (u.send tx 0).reply with
  | transportError => exact abortUnit hsent rfl heffect
  | data d =>
    have hd : D (u.send tx 0).dev := by simpa [hr] using hcases
    obtain ⟨hidle, hframe⟩ := hnext ((u.send tx 0).goto next) (by simp) (by simp) hd
    exact ⟨heffect, hidle, hframe, fun _ => ⟨h.place, hsent.unit, hsent.page⟩⟩

/-- A status read, in a state that differs from `s` outside the device: it ends in an error, or its byte shows BUSY. -/
theorem poll {polling : Pc} {onError : State → State} (hcfg : u.cfg = s.cfg) (hdev : u.dev = s.dev)
    (hfault : s.dev.dfault = false)
    (herror : ∀ w : State, w.cfg = u.cfg → w.eng = u.eng → s.Effect w.dev → s.StaysInStep (onError w))
    (hread : ∀ (w : State) (b : Byte), w.cfg = u.cfg →
      w.eng = { u.eng with status := b, polls := u.eng.polls + 1, pc := polling } →
      (busyBit w.eng.status = false → w.dev.busy = false) → s.Effect w.dev → s.StaysInStep w) :
    s.StaysInStep (u.poll polling onError) := by
  obtain ⟨hcases, hreply⟩ := u.send_status (hdev ▸ hfault)
  have heffect : s.Effect (u.send [opcRdsr, statusReg] 1).dev := by
    rw [hcfg, hdev] at hcases
    rcases hcases with hd | ⟨p, hp, hd⟩
    · rw [hd]; exact .still
    · exact .completes hp hd
  simp only [State.poll]
  rcases hreply with hr | ⟨b, hr, hb⟩
  · rw [hr]
    exact herror _ (by simp) (by simp) heffect
  · rw [hr]
    exact hread _ b (by simp) (by simp) (fun hbusy => hb ▸ hbusy) heffect

/-- A status read of a unit's await. -/
theorem pollUnit {polling : Pc} (hpolling : polling ∈ [Pc.eBusy, .pBusy, .rBusy]) (h : s.InUnitOf u)
    (hdev : u.dev = s.dev) (hfault : s.dev.dfault = false) (hslice : polling = .rBusy → u.SliceFits) :
    s.StaysInStep (u.pollUnit polling) := by
  refine poll h.cfg hdev hfault (fun w hcfg heng heff => ?_) (fun w b hcfg heng hbusy heff => ?_)
  · exact abortUnit ⟨h.place, hcfg.trans h.cfg, heng ▸ h.op, heng ▸ h.page, heng ▸ h.unit, heng ▸ h.alive⟩ rfl heff
  · refine ⟨heff, ?_, ?_, fun _ => ⟨h.place, by rw [heng]; exact h.unit, by rw [heng]; exact h.page⟩⟩
    · simp only [List.mem_cons, List.not_mem_nil, or_false] at hpolling
      rcases hpolling with rfl | rfl | rfl <;> simpa [State.DeviceIdleWhenKnown, heng] using hbusy
    · simp only [List.mem_cons, List.not_mem_nil, or_false] at hpolling
      rcases hpolling with rfl | rfl | rfl
      · simp [State.FrameReady, heng]
      · simp [State.FrameReady, heng]
      · simpa [State.FrameReady, heng, hcfg, State.SliceFits] using hslice rfl

/-! #### The recovery await -/

theorem raiseBeforeUnits {e : ErrorCode} (he : e.leavesBusy = true) (halive : w.eng.wasDead = false)
    (heff : s.Effect w.dev) : s.StaysInStep (w.raiseBeforeUnits e) := by
  refine of_unsettled ?_ (by simp [State.raiseBeforeUnits_eng]) (by simp [State.raiseBeforeUnits_eng, he])
    (by simpa [State.raiseBeforeUnits_eng] using halive)
  have hdev : (w.raiseBeforeUnits e).dev = w.dev := by
    unfold State.raiseBeforeUnits
    split <;> simp [(w.spoilBuffer_rest 0).2.2.1]
  rwa [hdev]

theorem pollRecover (hcfg : u.cfg = s.cfg) (hdev : u.dev = s.dev) (halive : u.eng.wasDead = false)
    (hfault : s.dev.dfault = false) : s.StaysInStep u.pollRecover := by
  refine poll hcfg hdev hfault (fun w _ heng heff => raiseBeforeUnits rfl (heng ▸ halive) heff)
    (fun w b _ heng hbusy heff => ⟨heff, ?_, ?_, ?_⟩)
  · simpa [State.DeviceIdleWhenKnown, heng] using hbusy
  · simp [State.FrameReady, heng]
  · simp [heng, insideStates]

theorem firstUnit (hidle : s.dev.busy = false) (hdev : u.dev = s.dev) : s.StaysInStep u.firstUnit :=
  of_quiet hidle ((State.loopTest_dev _).trans hdev) State.firstUnit_eng.1.mem_still

theorem seqRecover (hp : s.eng.pc = .recover) (hknown : s.DeviceIdleWhenKnown) (halive : s.eng.wasDead = false)
    (hfault : s.dev.dfault = false) : s.StaysInStep s.seqRecover := by
  unfold State.seqRecover
  split
  · exact pollRecover rfl rfl halive hfault
  · rename_i hpolls
    have hidle (hbusy : busyBit s.eng.status = false) : s.dev.busy = false := by
      simp only [State.DeviceIdleWhenKnown, hp] at hknown
      exact hknown hpolls hbusy
    split
    · exact firstUnit (hidle (busyBit_of_settle (.inl ‹_›))) rfl
    · exact firstUnit (hidle (busyBit_of_settle (.inr ‹_›))) rfl
    · exact raiseBeforeUnits rfl halive .still
    · exact pollRecover (u := s.wait) rfl rfl halive hfault

/-! #### The states of a unit -/

/-- The polling state of a unit: where the status byte shows the device idle, it is. -/
theorem seqBusy {polling : Pc} {settled failed : State → State} (hp : s.eng.pc = polling)
    (hpolling : polling ∈ [Pc.eBusy, .pBusy, .rBusy]) (hs : s.Protocol) (halive : s.eng.wasDead = false)
    (hsettled : s.dev.busy = false → s.StaysInStep (settled s) ∧ s.StaysInStep (failed s)) :
    s.StaysInStep (s.seqBusy polling settled failed) := by
  have hmem : ∀ p ∈ [Pc.eBusy, .pBusy, .rBusy], p ∈ unitStates ∧ p.unitBoundary = false := by decide
  obtain ⟨hplace, hinside⟩ := hmem _ hpolling
  have hunit : s.InUnitOf s := ⟨hp ▸ hplace, rfl, rfl, by simp [State.currentPage, hp, hinside], rfl, halive⟩
  have hidle (hbusy : busyBit s.eng.status = false) : s.dev.busy = false := by
    have hknown := hs.idleWhenKnown
    simp only [List.mem_cons, List.not_mem_nil, or_false] at hpolling
    unfold State.DeviceIdleWhenKnown at hknown
    rcases hpolling with rfl | rfl | rfl <;> rw [hp] at hknown <;> exact hknown hbusy
  unfold State.seqBusy
  split
  · exact (hsettled (hidle (busyBit_of_settle (.inl ‹_›)))).1
  · exact (hsettled (hidle (busyBit_of_settle (.inr ‹_›)))).2
  · exact abortUnit hunit rfl .still
  · exact pollUnit (u := s.wait) hpolling
      ⟨hunit.place, hunit.cfg, hunit.op, hunit.page, hunit.unit, hunit.alive⟩ rfl hs.noFault fun hread =>
        hs.frameReady.sliceFits (by simp [hp, hread])

/-- A unit that begins, or is cancelled at its boundary. -/
theorem boundary {tx : List Byte} {next : Pc} {D : Device → Prop} (hidle : s.dev.busy = false)
    (h : s.InUnitOf u) (hdev : u.dev = s.dev) (hacts : u.Acts tx 0 D) (heff : ∀ d, D d → s.Effect d)
    (hnext : ∀ w : State, w.cfg = u.cfg → w.eng = { u.eng with pc := next } → D w.dev →
      w.DeviceIdleWhenKnown ∧ w.FrameReady) :
    s.StaysInStep (if s.eng.cancel then s.raiseCancelled else u.unitFrame tx next) := by
  split
  · exact of_quiet hidle s.raiseCancelled_dev (by simp [State.raiseCancelled_eng, stillStates])
  · exact unitFrame h hdev hacts heff hnext

/-- The WREN that begins an erase or program unit (R351). -/
theorem enable {next : Pc} (hp : s.eng.pc = .eUnit ∨ s.eng.pc = .pUnit) (hnext : next = .eWel ∨ next = .pWel)
    (hidle : s.dev.busy = false) (h : s.InUnitOf u) (hdev : u.dev = s.dev) (hpage : u.eng.page < u.cfg.numPages) :
    s.StaysInStep (if s.eng.cancel then s.raiseCancelled else u.unitFrame [opcWren] next) := by
  refine boundary hidle h hdev (State.acts_wren (hdev ▸ hidle)) ?_ ?_
  · rintro _ rfl
    rw [hdev]
    exact .latches s.dev.bp true (by rcases hp with hp | hp <;> simp [hp])
  · intro w hcfg heng hd
    have hbusy : w.dev.busy = false := by rw [hd, hdev]; exact hidle
    refine ⟨State.deviceIdleWhenKnown_of_idle hbusy, ?_⟩
    rcases hnext with rfl | rfl <;> simp [State.FrameReady, heng, hcfg, hd, hpage]

/-- A page command that starts in a unit: behind it the engine knows nothing of the device until it asks. -/
theorem start {tx : List Byte} {next : Pc} {p : Pending} (hnext : next = .eCmd ∨ next = .pCmd) (h : s.InUnitOf s)
    (hp : commandOf s.eng.op s.currentPage = p) (hacts : s.Acts tx 0 (· = { s.dev with pending := some p })) :
    s.StaysInStep (s.unitFrame tx next) := by
  refine unitFrame h rfl hacts ?_ (fun w _ heng _ => ?_)
  · rintro _ rfl
    exact hp ▸ .starts h.place
  · rcases hnext with rfl | rfl <;> simp [State.DeviceIdleWhenKnown, State.FrameReady, heng]

end State.StaysInStep

/-! #### The sequencer -/

theorem Pc.not_ready_of_inFlight {p : Pc} (h : p.inFlight = true) : p.ready = false := by
  cases p <;> simp_all [Pc.inFlight, Pc.ready]

theorem Pc.ready_iff {p : Pc} : p.ready = true ↔ p = .idle ∨ p = .dead := by
  cases p <;> simp [Pc.ready]

/-- Between requests no plan is needed. -/
theorem State.PlanStands.of_ready (hp : s.eng.pc.ready = true) : s.PlanStands := by
  rcases Pc.ready_iff.1 hp with hp | hp <;> exact .of_outside (by rw [hp]; rfl) (by rw [hp]; decide)

/-- The states in which the engine knows the device to be idle whatever its registers hold. -/
def idleStates : List Pc :=
  [.bringup, .dead, .eUnit, .eWel, .eReady, .eFailed, .pUnit, .pWel, .pLoaded, .pReady, .pFailed, .rUnit, .rReady,
    .wrdi]

theorem State.Protocol.idle (hs : s.Protocol) (hp : s.eng.pc ∈ idleStates) : s.dev.busy = false := by
  have hknown := hs.idleWhenKnown
  unfold State.DeviceIdleWhenKnown at hknown
  cases hpc : s.eng.pc <;> simp_all [idleStates]

/-- In a state of a unit in progress OP is the unit's operation, and the unit is one of the plan. -/
theorem State.Protocol.unit_inPlan (hs : s.Protocol) {op : Byte} (hop : s.eng.pc.operation = some op)
    (hp : s.eng.pc ∈ unitStates) : s.eng.op = op ∧ s.Planned ∧ s.eng.unit < s.eng.nunits := by
  have hnot : ∀ p ∈ unitStates, p ≠ .eReady ∧ p ≠ .pReady := by decide
  obtain ⟨he, hr⟩ := hnot _ hp
  obtain ⟨heq, hplanned, -⟩ := hs.planStands.running op hop
  exact ⟨heq, hplanned, hs.planStands.inPlan (by rw [hop]; simp) he hr⟩

/-- There the engine was alive at acceptance, and the unit's page is one of the device. -/
theorem State.Protocol.planned (hs : s.Protocol) {op : Byte} (hop : s.eng.pc.operation = some op)
    (hp : s.eng.pc ∈ unitStates) : s.eng.op = op ∧ s.eng.wasDead = false ∧
      unitPage s.cfg s.eng.offset s.eng.unit < s.cfg.numPages := by
  obtain ⟨heq, hplanned, hunit⟩ := hs.unit_inPlan hop hp
  exact ⟨heq, (hs.planStands.running op hop).2.2, hplanned.unitPage_lt (regular_of_valid hs.config) hunit⟩

/-- The slice of a unit of the plan fits its page (R353). -/
theorem State.Protocol.loadSlice_fits (hs : s.Protocol) (hp : s.eng.pc = .rUnit) : s.loadSlice.SliceFits := by
  obtain ⟨-, hplanned, hunit⟩ := hs.unit_inPlan (op := hostRead) (by rw [hp]; rfl) (by rw [hp]; decide)
  have hc := regular_of_valid hs.config
  exact sliceAt_fits hc.pageSize_pos hplanned.nonempty (hplanned.lt_spannedPages hc hunit)

/-- Behind the boundary of a unit the registers hold it. -/
theorem State.InUnitOf.self (hp : s.eng.pc ∈ unitStates) (hinside : s.eng.pc.unitBoundary = false)
    (halive : s.eng.wasDead = false) : s.InUnitOf s :=
  ⟨hp, rfl, rfl, by simp [State.currentPage, hinside], rfl, halive⟩

namespace State.Protocol

theorem seqBringup (hs : s.Protocol) (hp : s.eng.pc = .bringup) : s.StaysInStep s.seqBringup := by
  have hidle := hs.idle (by rw [hp]; decide)
  have hd := s.send_dev (State.acts_wrsr hidle)
  have heff : s.Effect (s.send [opcWrsr, protectReg, 0x00] 0).dev := by
    rcases hd with hd | ⟨hd, -⟩ <;> rw [hd]
    · exact .latches 0x00 s.dev.wel (by simp [hp])
    · exact .still
  have hbusy : (s.send [opcWrsr, protectReg, 0x00] 0).dev.busy = false := by
    rcases hd with hd | ⟨hd, -⟩ <;> rw [hd] <;> exact hidle
  simp only [State.seqBringup]
  split <;> exact .of_idle heff hbusy (by simp [stillStates])

theorem seqEUnit (hs : s.Protocol) (hp : s.eng.pc = .eUnit) : s.StaysInStep s.seqEUnit := by
  have hplace : s.eng.pc ∈ unitStates := by rw [hp]; decide
  obtain ⟨-, halive, hpage⟩ := hs.planned (op := hostErase) (by rw [hp]; rfl) hplace
  exact .enable (.inl hp) (.inl rfl) (hs.idle (by rw [hp]; decide))
    ⟨hplace, rfl, rfl, by simp [State.currentPage, hp, Pc.unitBoundary], rfl, halive⟩ rfl hpage

theorem seqPUnit (hs : s.Protocol) (hp : s.eng.pc = .pUnit) : s.StaysInStep s.seqPUnit := by
  have hplace : s.eng.pc ∈ unitStates := by rw [hp]; decide
  obtain ⟨-, halive, hpage⟩ := hs.planned (op := hostWrite) (by rw [hp]; rfl) hplace
  exact .enable (.inr hp) (.inr rfl) (hs.idle (by rw [hp]; decide))
    ⟨hplace, rfl, rfl, by simp [State.currentPage, hp, Pc.unitBoundary], rfl, halive⟩ rfl hpage

theorem seqEWel (hs : s.Protocol) (hp : s.eng.pc = .eWel) : s.StaysInStep s.seqEWel := by
  have hplace : s.eng.pc ∈ unitStates := by rw [hp]; decide
  have hinside : s.eng.pc.unitBoundary = false := by rw [hp]; rfl
  obtain ⟨hop, halive, -⟩ := hs.planned (op := hostErase) (by rw [hp]; rfl) hplace
  obtain ⟨hwel, hpage⟩ := hs.frameReady.enabled (by simp [hp])
  exact .start (.inl rfl) (.self hplace hinside halive) (by simp [commandOf, hop, State.currentPage, hinside])
    (State.acts_bers (hs.idle (by rw [hp]; decide)) hwel hpage (regular_of_valid hs.config))

theorem seqPLoaded (hs : s.Protocol) (hp : s.eng.pc = .pLoaded) : s.StaysInStep s.seqPLoaded := by
  have hplace : s.eng.pc ∈ unitStates := by rw [hp]; decide
  have hinside : s.eng.pc.unitBoundary = false := by rw [hp]; rfl
  obtain ⟨hop, halive, -⟩ := hs.planned (op := hostWrite) (by rw [hp]; rfl) hplace
  obtain ⟨hwel, hpage⟩ := hs.frameReady.enabled (by simp [hp])
  exact .start (.inr rfl) (.self hplace hinside halive)
    (by simp [commandOf, hop, State.currentPage, hinside, hostWrite, hostErase])
    (State.acts_pex (hs.idle (by rw [hp]; decide)) hwel hpage (regular_of_valid hs.config))

theorem seqPWel (hs : s.Protocol) (hp : s.eng.pc = .pWel) (h : s.seqPWel = .next t) : s.StaysInStep t := by
  have hplace : s.eng.pc ∈ unitStates := by rw [hp]; decide
  obtain ⟨-, halive, -⟩ := hs.planned (op := hostWrite) (by rw [hp]; rfl) hplace
  have hready := hs.frameReady.enabled (by simp [hp])
  have hidle := hs.idle (by rw [hp]; decide)
  unfold State.seqPWel at h
  split at h
  · cases h
  · rename_i d hread
    cases h
    have hlen : d.length ≤ s.cfg.pageSize := State.memRead_length_le hread
    refine .unitFrame (.self hplace (by rw [hp]; rfl) halive) rfl (State.acts_pld hidle hlen) (fun d hd => ?_)
      (fun w hcfg heng hd => ?_)
    · rw [hd]; exact .loads _
    · refine ⟨State.deviceIdleWhenKnown_of_idle (by rw [hd]; exact hidle), ?_⟩
      have hwel : w.dev.wel = s.dev.wel := by rw [hd]
      simpa [State.FrameReady, heng, hcfg, hwel] using hready

theorem seqRUnit (hs : s.Protocol) (hp : s.eng.pc = .rUnit) : s.StaysInStep s.seqRUnit := by
  have hplace : s.eng.pc ∈ unitStates := by rw [hp]; decide
  have hboundary : s.eng.pc.unitBoundary = true := by rw [hp]; rfl
  have hcurrent : s.loadSlice.eng.page = s.currentPage := by rw [State.currentPage, if_pos hboundary]; rfl
  obtain ⟨hop, halive, hpage⟩ := hs.planned (op := hostRead) (by rw [hp]; rfl) hplace
  have hidle := hs.idle (by rw [hp]; decide)
  have hcommand : commandOf s.eng.op s.currentPage = .load s.loadSlice.eng.page := by
    rw [hcurrent, hop]; rfl
  refine .boundary hidle ⟨hplace, rfl, rfl, hcurrent, rfl, halive⟩ rfl
    (State.acts_prdc (s := s.loadSlice) hidle hpage (regular_of_valid hs.config)) ?_ (fun w hcfg heng _ => ?_)
  · rintro _ rfl
    exact hcommand ▸ .starts hplace
  · have hfits := hs.loadSlice_fits hp
    simpa [State.DeviceIdleWhenKnown, State.FrameReady, State.SliceFits, heng, hcfg] using hfits

theorem seqRReady (hs : s.Protocol) (hp : s.eng.pc = .rReady) (h : s.seqRReady = .next t) : s.StaysInStep t := by
  have hplace : s.eng.pc ∈ unitStates := by rw [hp]; decide
  obtain ⟨-, halive, -⟩ := hs.planned (op := hostRead) (by rw [hp]; rfl) hplace
  obtain ⟨hslen, hfits⟩ := hs.frameReady.sliceFits (by simp [hp])
  have hidle := hs.idle (by rw [hp]; decide)
  have hdev : (s.send (readCacheFrame s.eng.col) s.eng.slen).dev = s.dev :=
    (s.send_dev (State.acts_rdc hidle hslen hfits (regular_of_valid hs.config))).elim id And.left
  simp only [State.seqRReady] at h
  split at h
  · cases h
    have hself := State.InUnitOf.self hplace (by rw [hp]; rfl) halive
    exact .abortUnit ⟨hplace, by simp, by simp, by simpa using hself.page, by simp, by simpa using halive⟩ rfl
      (hdev ▸ .still)
  · split at h
    · cases h
    · rename_i u hu
      cases h
      refine .of_quiet hidle ((State.loopTest_dev _).trans ?_) (State.loopTest_eng.1.mem_still)
      exact (State.memWrite_dev hu).trans hdev

theorem seqFailed (hs : s.Protocol) (hp : s.eng.pc = .eFailed ∨ s.eng.pc = .pFailed) : s.StaysInStep s.seqFailed := by
  have hidle := hs.idle (by rcases hp with hp | hp <;> rw [hp] <;> decide)
  unfold State.seqFailed
  split <;> exact .of_quiet hidle rfl (by simp [stillStates])

theorem seqWrdi (hs : s.Protocol) (hp : s.eng.pc = .wrdi) : s.StaysInStep s.seqWrdi := by
  have hidle := hs.idle (by rw [hp]; decide)
  have hd := s.send_dev (State.acts_wrdi hidle)
  have heff : s.Effect (s.send [opcWrdi] 0).dev := by
    rcases hd with hd | ⟨hd, -⟩ <;> rw [hd]
    · exact .latches s.dev.bp false (by simp [hp])
    · exact .still
  have hbusy : (s.send [opcWrdi] 0).dev.busy = false := by
    rcases hd with hd | ⟨hd, -⟩ <;> rw [hd] <;> exact hidle
  simp only [State.seqWrdi]
  split <;> exact .of_idle heff hbusy (by simp [stillStates])

theorem respond (hs : s.Protocol) (hp : s.eng.pc = .respond) : s.StaysInStep s.respond := by
  have hknown := hs.idleWhenKnown
  simp only [State.DeviceIdleWhenKnown, hp] at hknown
  rcases hdead : s.eng.wasDead with - | -
  · refine ⟨.still, ?_, State.frameReady_of_still ?_, ?_⟩ <;>
      simp_all [State.DeviceIdleWhenKnown, stillStates, insideStates]
  · exact .of_quiet (hknown (.inr hdead)) rfl (by simp [hdead, stillStates])

/-- The first status read of a unit. -/
theorem awaitUnit (hs : s.Protocol) {mask : Byte} {polling : Pc} (hedge : (s.eng.pc, polling) ∈ awaitEdges) :
    s.StaysInStep ((s.startAwait mask).pollUnit polling) := by
  have hedges : ∀ e ∈ awaitEdges, e.1 ∈ unitStates ∧ e.1.unitBoundary = false ∧ e.1.operation ≠ none ∧
    e.2 ∈ [Pc.eBusy, .pBusy, .rBusy] ∧ (e.2 = .rBusy → e.1 = .rPageLoaded) := by decide
  obtain ⟨hplace, hinside, hsome, hpolling, hread⟩ := hedges _ hedge
  obtain ⟨op, hop⟩ := Option.ne_none_iff_exists'.1 hsome
  obtain ⟨-, halive, -⟩ := hs.planned hop hplace
  have hself := State.InUnitOf.self hplace hinside halive
  exact .pollUnit hpolling ⟨hplace, rfl, rfl, hself.page, rfl, halive⟩ rfl hs.noFault fun hp =>
    hs.frameReady.sliceFits (by rw [show s.eng.pc = .rPageLoaded from hread hp]; decide)

/-- The walk through the sequencer, one case for each value of `pc` (R24). -/
theorem staysInStep (hs : s.Protocol) (hready : s.eng.pc.ready = false) (h : s.seq = .next t) :
    s.StaysInStep t := by
  have halive {op : Byte} (hop : s.eng.pc.operation = some op) : s.eng.wasDead = false :=
    (hs.planStands.running op hop).2.2
  cases hp : s.eng.pc <;> simp only [State.seq, hp, Host.Outcome.next.injEq] at h
  case pWel => exact hs.seqPWel hp h
  case rReady => exact hs.seqRReady hp h
  all_goals subst h
  case bringup => exact hs.seqBringup hp
  case idle => rw [hp] at hready; cases hready
  case dead => rw [hp] at hready; cases hready
  case recover => exact .seqRecover hp hs.idleWhenKnown (hs.planStands.recovering hp).2 hs.noFault
  case eUnit => exact hs.seqEUnit hp
  case eWel => exact hs.seqEWel hp
  case eCmd => exact hs.awaitUnit (by rw [hp]; decide)
  case eBusy =>
    exact .seqBusy hp (by decide) hs (halive (by rw [hp]; rfl)) fun hidle =>
      ⟨.of_quiet hidle rfl (by simp [stillStates]), .of_quiet hidle rfl (by simp [stillStates])⟩
  case eReady =>
    exact .of_quiet (hs.idle (by rw [hp]; decide)) s.loopTest_dev State.loopTest_eng.1.mem_still
  case eFailed => exact hs.seqFailed (.inl hp)
  case pUnit => exact hs.seqPUnit hp
  case pLoaded => exact hs.seqPLoaded hp
  case pCmd => exact hs.awaitUnit (by rw [hp]; decide)
  case pBusy =>
    exact .seqBusy hp (by decide) hs (halive (by rw [hp]; rfl)) fun hidle =>
      ⟨.of_quiet hidle rfl (by simp [stillStates]), .of_quiet hidle rfl (by simp [stillStates])⟩
  case pReady =>
    exact .of_quiet (hs.idle (by rw [hp]; decide)) s.loopTest_dev State.loopTest_eng.1.mem_still
  case pFailed => exact hs.seqFailed (.inr hp)
  case rUnit => exact hs.seqRUnit hp
  case rPageLoaded => exact hs.awaitUnit (by rw [hp]; decide)
  case rBusy =>
    have hself := State.InUnitOf.self (by rw [hp]; decide) (by rw [hp]; rfl) (halive (by rw [hp]; rfl))
    have hfits : 1 ≤ s.eng.slen ∧ s.eng.col + s.eng.slen ≤ s.cfg.pageSize := hs.frameReady.sliceFits (by simp [hp])
    have hloaded (hidle : s.dev.busy = false) : s.StaysInStep (s.goto .rReady) :=
      ⟨.still, State.deviceIdleWhenKnown_of_idle hidle, by simpa [State.FrameReady] using hfits,
        fun _ => ⟨hself.place, rfl, hself.page⟩⟩
    exact .seqBusy hp (by decide) hs (halive (by rw [hp]; rfl)) fun hidle => ⟨hloaded hidle, hloaded hidle⟩
  case wrdi => exact hs.seqWrdi hp
  case respond => exact hs.respond hp

/-- Taking the host's move keeps the protocol: a cancel writes CANCEL only. -/
theorem takeMove (hs : s.Protocol) : s.takeMove.Protocol where
  config := hs.config
  onlyEngine := hs.onlyEngine
  noReset hm := hs.noReset (List.mem_of_mem_tail hm)
  noFault := hs.noFault
  idleWhenKnown := hs.idleWhenKnown
  frameReady := hs.frameReady
  planStands := hs.planStands.takeMove

/-- The plan stands behind bring-up too: no request is in flight there. -/
theorem seq_planStands (hs : s.Protocol) (hready : s.eng.pc.ready = false) (h : s.seq = .next t) : t.PlanStands := by
  cases hin : s.eng.pc.inFlight with
  | true => exact (State.flow_of_seq h).planStands hin hs.planStands (State.ledger_seq (by simp) h)
  | false =>
    have hp : s.eng.pc = .bringup := by
      cases hp : s.eng.pc <;> simp_all [Pc.inFlight, Pc.ready]
    have hnext : t.eng.pc = .dead ∨ t.eng.pc = .idle := by
      simp only [State.seq, hp, Host.Outcome.next.injEq, State.seqBringup] at h
      split at h
      · exact .inl (h ▸ rfl)
      · exact .inr (h ▸ rfl)
    rcases hnext with hq | hq <;> exact .of_outside (by rw [hq]; rfl) (by rw [hq]; decide)

/-- Every move of the sequencer keeps the protocol. -/
theorem seq (hs : s.Protocol) (hready : s.eng.pc.ready = false) (h : s.seq = .next t) : t.Protocol := by
  have hledger := State.ledger_seq (exact := false) (by simp) h
  have hcfg : t.cfg = s.cfg := congrArg Ledger.cfg hledger
  have hport : t.framePort = s.framePort := congrArg Ledger.framePort hledger
  have hmoves : t.host.moves = s.host.moves := congrArg Ledger.moves hledger
  obtain ⟨heff, hidle, hframe, -⟩ := hs.staysInStep hready h
  exact ⟨hcfg ▸ hs.config, hport.trans hs.onlyEngine, by rw [State.NoReset, hmoves]; exact hs.noReset,
    heff.dfault.trans hs.noFault, hidle, hframe, hs.seq_planStands hready h⟩

theorem transition_eq (hs : s.Protocol) : s.transition = s.takeMove.seq :=
  State.transition_of_no_reset s (s.resetNow_of_noReset hs.noReset)

theorem transition (hs : s.Protocol) (hready : s.eng.pc.ready = false) (h : s.transition = .next t) : t.Protocol :=
  hs.takeMove.seq hready (hs.transition_eq ▸ h)

theorem runRequest (hs : s.Protocol) (h : s.runRequest = .next t) : t.Protocol :=
  runInFlight_induction (R := fun u v => u.Protocol → v.Protocol) (fun _ hu => hu)
    (fun _ _ _ hin hmove hrest hu => hrest (hu.transition (Pc.not_ready_of_inFlight hin) hmove)) h hs

/-! #### Requests -/

/-- Acceptance keeps the protocol: `pc` is still the ready state. -/
theorem accept (hs : s.Protocol) (hp : s.eng.pc.ready = true) (r : Request) : (s.accept r).Protocol := by
  have hknown := hs.idleWhenKnown
  refine ⟨hs.config, hs.onlyEngine, hs.noReset, hs.noFault, ?_, hs.frameReady, .of_ready hp⟩
  rcases Pc.ready_iff.1 hp with hp | hp <;> simpa [State.DeviceIdleWhenKnown, hp] using hknown

/-- Where the accepted request finds MAYBE_BUSY clear or the engine DEAD, the device is idle (R32, R350). -/
theorem accept_idle (hs : s.Protocol) (hp : s.eng.pc.ready = true) (r : Request)
    (h : s.eng.maybeBusy = false ∨ (s.accept r).eng.wasDead = true) : s.dev.busy = false := by
  have hknown := hs.idleWhenKnown
  rcases Pc.ready_iff.1 hp with hp | hp <;> simp only [State.DeviceIdleWhenKnown, hp] at hknown
  · exact hknown (h.resolve_right (by simp [hp]))
  · exact hknown

end State.Protocol

/-- The beginning of a run sends no frame. -/
theorem State.Begins.dev (h : s.Begins t) : t.dev = s.dev := by
  cases h with
  | answers result =>
    rcases result with rfl | rfl | rfl
    · rfl
    · rfl
    · unfold State.raiseBeforeUnits
      split <;> simp [(s.spoilBuffer_rest 0).2.2.1]
  | recovers _ _ result => rw [result]; rfl
  | loops _ _ result => rw [result]; exact State.loopTest_dev _

/-- The beginning of a run does not clear MAYBE_BUSY. -/
theorem State.Begins.maybeBusy (h : s.Begins t) (ht : t.eng.maybeBusy = false) : s.eng.maybeBusy = false := by
  cases h with
  | answers result =>
    rcases result with rfl | rfl | rfl
    · exact ht
    · simpa [ErrorCode.leavesBusy] using ht
    · simp [State.raiseBeforeUnits_eng, ErrorCode.leavesBusy] at ht
  | recovers _ _ result => rw [result] at ht; exact ht
  | loops _ _ result =>
    rw [result, State.firstUnit, State.loopTest] at ht
    split at ht <;> exact ht

/-- A run that begins at a unit boundary found MAYBE_BUSY clear: otherwise it recovers first (R310). -/
theorem State.maybeBusy_of_dispatch (h : s.dispatch.eng.pc ≠ .respond ∧ s.dispatch.eng.pc ≠ .recover) :
    s.eng.maybeBusy = false := by
  obtain ⟨hrespond, hrecover⟩ := h
  cases hbusy : s.eng.maybeBusy with
  | false => rfl
  | true =>
    unfold State.dispatch State.handle at hrespond hrecover
    split_ifs at hrespond hrecover
    · exact absurd rfl hrespond
    · exact absurd rfl hrespond
    · exact absurd rfl hrespond
    · exact absurd (by rw [State.raiseBeforeUnits_eng]; rfl) hrespond
    · exact absurd (by simp [State.startUnits, hbusy]) hrecover

namespace State.Protocol

/-- What a run begins with keeps the protocol. -/
theorem dispatch (hs : s.Protocol) (hp : s.eng.pc.ready = true) (r : Request) : (s.accept r).dispatch.Protocol := by
  have hbegins := (s.accept r).dispatch_begins
  have hledger := hbegins.ledger false
  have hcfg : (s.accept r).dispatch.cfg = s.cfg := congrArg Ledger.cfg hledger
  have hport : (s.accept r).dispatch.framePort = s.framePort := congrArg Ledger.framePort hledger
  have hmoves : (s.accept r).dispatch.host.moves = s.host.moves := congrArg Ledger.moves hledger
  have hdead : (s.accept r).dispatch.eng.wasDead = (s.accept r).eng.wasDead := congrArg Ledger.wasDead hledger
  have hdev : (s.accept r).dispatch.dev = s.dev := hbegins.dev
  have hrespond (hp' : (s.accept r).dispatch.eng.pc = .respond) : (s.accept r).dispatch.DeviceIdleWhenKnown := by
    simp only [State.DeviceIdleWhenKnown, hp', hdev, hdead]
    exact fun h => hs.accept_idle hp r (h.imp_left hbegins.maybeBusy)
  have hplace : (s.accept r).dispatch.DeviceIdleWhenKnown ∧ (s.accept r).dispatch.FrameReady := by
    rcases hbegins.place with hp' | ⟨hp', hpolls⟩ | ⟨hloop, -⟩
    · exact ⟨hrespond hp', State.frameReady_of_still (by rw [hp']; decide)⟩
    · simp [State.DeviceIdleWhenKnown, State.FrameReady, hp', hpolls]
    · refine ⟨?_, State.frameReady_of_still hloop.mem_still⟩
      by_cases hp' : (s.accept r).dispatch.eng.pc = .respond
      · exact hrespond hp'
      · have hrecover : (s.accept r).dispatch.eng.pc ≠ .recover := fun h => by
          have hmem := hloop.pc_mem
          rw [h] at hmem
          revert hmem
          decide
        have hclear := State.maybeBusy_of_dispatch ⟨hp', hrecover⟩
        exact State.deviceIdleWhenKnown_of_idle (hdev ▸ hs.accept_idle hp r (.inl hclear))
  exact ⟨hcfg ▸ hs.config, hport.trans hs.onlyEngine, by rw [State.NoReset, hmoves]; exact hs.noReset,
    by rw [hdev]; exact hs.noFault, hplace.1, hplace.2, hbegins.planStands⟩

/-- A record with an unassigned operation is answered within the protocol. -/
theorem execUnassigned (hs : s.Protocol) (hp : s.eng.pc.ready = true) {r : Request}
    (h : execUnassigned r s = .next t) : t.Protocol := by
  have hbegins : (s.accept r).Begins ((s.accept r).raise .invalidArgument) := .answers (.inr (.inl rfl))
  have hraised : ((s.accept r).raise .invalidArgument).Protocol := by
    refine ⟨hs.config, hs.onlyEngine, hs.noReset, hs.noFault, ?_, trivial, hbegins.planStands⟩
    exact fun h => hs.accept_idle hp r (h.imp_left hbegins.maybeBusy)
  exact hraised.runRequest (by simpa [Machine.execUnassigned, State.serve, hp] using h)

/-- Every host operation keeps the protocol. -/
theorem exec (hs : s.Protocol) (hp : s.eng.pc.ready = true) {i : Instr} {r : Request} (hi : encode i = .request r)
    (h : exec i s = .next t) : t.Protocol :=
  (hs.dispatch hp r).runRequest (runRequest_of_exec hi hp h)

/-- Taking a record from the port changes the host's lists only. -/
theorem takeRecord (hs : s.Protocol) (hp : s.eng.pc.ready = true) (rest : List Request) :
    (s.takeRecord rest).Protocol :=
  ⟨hs.config, hs.onlyEngine, fun hm => hs.noReset (List.mem_of_mem_tail hm), hs.noFault, hs.idleWhenKnown,
    hs.frameReady, .of_ready hp⟩

end State.Protocol

/-- What a record decodes to is carried by that record. -/
theorem encode_of_decodeRequest {r : Request} {i : Instr} (h : decodeRequest r = .ok i) : encode i = .request r := by
  unfold decodeRequest at h
  split_ifs at h with h1 h2 h3 h4
  · cases h; rw [encode, ← h1]
  · cases h; rw [encode, ← h2]
  · cases h; rw [encode, ← h3]
  · cases h; rw [encode, ← h4]

/-- Settles O29: a step that the protocol allows is a move of the sequencer or a whole request. -/
theorem stepKeepsTheProtocol : Obligations.StepKeepsTheProtocol := by
  intro s t hs h
  obtain ⟨-, hcase⟩ := step_cases h
  cases hcase with
  | command f i port | rejected f e port => rw [hs.onlyEngine] at port; cases port
  | waited _ _ _ _ result => exact result ▸ hs.takeMove
  | operation r rest i _ ready _ _ _ decoded runs =>
    exact (hs.takeRecord ready rest).exec ready (encode_of_decodeRequest decoded) runs
  | unassigned r rest e _ ready _ _ _ _ runs => exact (hs.takeRecord ready rest).execUnassigned ready runs
  | moved _ notTaking runs =>
    exact hs.transition (notTaking.resolve_right (by simp [s.resetNow_of_noReset hs.noReset])) runs

end

end Sys2Proof.Machine
end

/-! ### A request changes its own range only

From a device that executes nothing, every command pending in a request is one of its own units, and these address bytes
of the request's range (R72, R190). -/

section
namespace Sys2Proof.Machine

/-- A block or a page among those from the first to the last byte of an aligned request lies inside it. -/
theorem grain_within {grain offset length k : Nat} (hgrain : 0 < grain) (hlength : 0 < length)
    (haligned : alignedTo grain offset length = true) (hfirst : offset / grain ≤ k)
    (hlast : k ≤ (offset + length - 1) / grain) : offset ≤ k * grain ∧ k * grain + grain ≤ offset + length := by
  simp only [alignedTo, Bool.and_eq_true, beq_iff_eq] at haligned
  have hdvd := Nat.dvd_add (Nat.dvd_of_mod_eq_zero haligned.1) (Nat.dvd_of_mod_eq_zero haligned.2)
  have hbelow : k < (offset + length) / grain := by
    rw [Nat.lt_div_iff_mul_lt' hdvd]
    have := (Nat.le_div_iff_mul_le hgrain).1 hlast
    rw [mul_comm]
    omega
  constructor
  · calc offset = offset / grain * grain := (Nat.div_mul_cancel (Nat.dvd_of_mod_eq_zero haligned.1)).symm
      _ ≤ k * grain := Nat.mul_le_mul_right _ hfirst
  · calc k * grain + grain = (k + 1) * grain := (Nat.succ_mul _ _).symm
      _ ≤ (offset + length) / grain * grain := Nat.mul_le_mul_right _ hbelow
      _ = offset + length := Nat.div_mul_cancel hdvd

/-- The request in the registers addresses a byte of ARRAY. -/
def State.Addresses (s : State) (a : Nat) : Prop := s.eng.offset ≤ a ∧ a < s.eng.offset + s.eng.length

/-- A pending command may be one of the request in the registers: it writes in its range, and of a READ it is a load. -/
structure State.Owns (s : State) (p : Pending) : Prop where
  within : ∀ a, p.Writes s.cfg a → s.Addresses a
  load : s.eng.op = hostRead → ∃ page, p = .load page

/-- The device, which was `base` when the request was accepted, has changed as the request may change it. -/
structure Device.ConfinedTo (base : Device) (s : State) (d : Device) : Prop where
  own : ∀ p, d.pending = some p → s.Owns p
  outside : ∀ a, ¬ s.Addresses a → d.array.read a = base.array.read a
  read : s.eng.op = hostRead → d = { base with cache := d.cache, pending := d.pending }

/-- So far the request has kept to its range: the invariant of its run. -/
structure State.Confined (base : Device) (s : State) : Prop where
  device : base.ConfinedTo s s.dev
  page : s.eng.pc ∈ insideStates → s.eng.page = unitPage s.cfg s.eng.offset s.eng.unit
  noWrdi : s.eng.op = hostRead → s.eng.pc ≠ .wrdi

section
variable {s t : State} {base : Device}

/-- In a unit in progress the page worked on is the unit's own, be it still to be written to PAGE or not. -/
theorem State.Confined.currentPage (hc : s.Confined base) (hp : s.eng.pc ∈ unitStates) :
    s.currentPage = unitPage s.cfg s.eng.offset s.eng.unit := by
  have hstates : ∀ p ∈ unitStates, p.unitBoundary = true ∨ p ∈ insideStates := by decide
  unfold State.currentPage
  split
  · rfl
  · exact hc.page ((hstates _ hp).resolve_left ‹_›)

/-- The block of an erase unit lies in the request's range (R194, R195). -/
theorem State.Planned.erase_within (h : s.Planned) (hc : Regular s.cfg) (hop : s.eng.op = hostErase) {unit : Nat}
    (hunit : unit < s.eng.nunits) {a : Nat}
    (ha : (Pending.erase (unitPage s.cfg s.eng.offset unit)).Writes s.cfg a) : s.Addresses a := by
  have haligned : alignedTo s.cfg.blockSize s.eng.offset s.eng.length = true := by
    have hchecks := h.checks
    simp only [State.checksPass, hop, if_true, eraseChecks, Bool.and_eq_true] at hchecks
    exact hchecks.2
  have hblock (n : Nat) : n / s.cfg.blockSize = n / s.cfg.pageSize / s.cfg.pagesPerBlock :=
    (Nat.div_div_eq_div_mul _ _ _).symm
  obtain ⟨hlo, hhi⟩ := grain_within (k := blockOf s.cfg (unitPage s.cfg s.eng.offset unit)) hc.blockSize_pos
    h.nonempty haligned
    (by rw [hblock]; exact Nat.div_le_div_right (Nat.le_add_right _ _))
    (by rw [hblock]; exact Nat.div_le_div_right (unitPage_le h.nonempty (h.lt_spannedPages hc hunit)))
  obtain ⟨hge, hlt⟩ := ha
  unfold blockBase at hge hlt
  exact ⟨hlo.trans hge, hlt.trans_le hhi⟩

/-- The page of a program unit lies in the request's range (R198, R199). -/
theorem State.Planned.program_within (h : s.Planned) (hc : Regular s.cfg) (hop : s.eng.op = hostWrite) {unit : Nat}
    (hunit : unit < s.eng.nunits) {a : Nat}
    (ha : (Pending.program (unitPage s.cfg s.eng.offset unit)).Writes s.cfg a) : s.Addresses a := by
  have haligned : alignedTo s.cfg.pageSize s.eng.offset s.eng.length = true := by
    have hchecks := h.checks
    simp only [State.checksPass, hop, if_neg (show hostWrite ≠ hostErase by decide), if_true, writeChecks,
      Bool.and_eq_true] at hchecks
    exact hchecks.2
  obtain ⟨hlo, hhi⟩ := grain_within (k := unitPage s.cfg s.eng.offset unit) hc.pageSize_pos h.nonempty haligned
    (Nat.le_add_right _ _) (unitPage_le h.nonempty (h.lt_spannedPages hc hunit))
  obtain ⟨hge, hlt⟩ := ha
  unfold pageBase at hge hlt
  exact ⟨hlo.trans hge, hlt.trans_le hhi⟩

/-- The command of the unit in progress is one of the request. -/
theorem State.Protocol.owns_unit (hs : s.Protocol) (hc : s.Confined base) (hp : s.eng.pc ∈ unitStates) :
    s.Owns (commandOf s.eng.op s.currentPage) := by
  have hoperations : ∀ p ∈ unitStates, p.operation = some hostErase ∨ p.operation = some hostWrite ∨
    p.operation = some hostRead := by decide
  have hregular := regular_of_valid hs.config
  rw [hc.currentPage hp]
  rcases hoperations _ hp with hop | hop | hop <;> obtain ⟨heq, hplanned, hunit⟩ := hs.unit_inPlan hop hp
  · rw [heq]
    exact ⟨fun _ ha => hplanned.erase_within hregular heq hunit ha, fun hr => absurd (heq.symm.trans hr) (by decide)⟩
  · rw [heq]
    exact ⟨fun _ ha => hplanned.program_within hregular heq hunit ha,
      fun hr => absurd (heq.symm.trans hr) (by decide)⟩
  · rw [heq]
    exact ⟨fun _ ha => ha.elim, fun _ => ⟨_, rfl⟩⟩

/-- A latch is written in bring-up, at the boundary of an erase or program unit, and in WRDI only. -/
theorem State.Protocol.not_read_of_latch (hs : s.Protocol) (hc : s.Confined base) (hin : s.eng.pc.inFlight = true)
    (hp : s.eng.pc ∈ [Pc.bringup, .eUnit, .pUnit, .wrdi]) : s.eng.op ≠ hostRead := by
  intro hread
  simp only [List.mem_cons, List.not_mem_nil, or_false] at hp
  rcases hp with hp | hp | hp | hp
  · rw [hp] at hin; cases hin
  · obtain ⟨heq, -⟩ := hs.planStands.running hostErase (by rw [hp]; rfl)
    exact absurd (heq.symm.trans hread) (by decide)
  · obtain ⟨heq, -⟩ := hs.planStands.running hostWrite (by rw [hp]; rfl)
    exact absurd (heq.symm.trans hread) (by decide)
  · exact hc.noWrdi hread hp

/-- Whatever a move leaves of the device is confined as the device was. -/
theorem State.Effect.confined {d : Device} (h : s.Effect d) (hs : s.Protocol) (hc : s.Confined base)
    (hin : s.eng.pc.inFlight = true) : base.ConfinedTo s d := by
  induction h with
  | still => exact hc.device
  | latches bp wel place =>
    exact ⟨hc.device.own, hc.device.outside, fun hread => absurd hread (hs.not_read_of_latch hc hin place)⟩
  | loads cache => exact ⟨hc.device.own, hc.device.outside, fun hread => by rw [hc.device.read hread]⟩
  | starts place =>
    refine ⟨fun p hp => ?_, hc.device.outside, fun hread => by rw [hc.device.read hread]⟩
    exact Option.some.inj hp ▸ hs.owns_unit hc place
  | completes pending completed =>
    have howns := hc.device.own _ pending
    refine ⟨fun p hp => ?_, fun a ha => ?_, fun hread => ?_⟩
    · rw [completed.idle] at hp; cases hp
    · rw [completed.outside a (mt (howns.within a) ha), hc.device.outside a ha]
    · obtain ⟨page, hload⟩ := howns.load hread
      rw [completed.load page hload, hc.device.read hread]
  | spoils array before place writing outside ih =>
    have howns := hs.owns_unit hc place
    exact ⟨ih.own, fun a ha => (outside a (mt (howns.within a) ha)).trans (ih.outside a ha),
      fun hread => absurd hread writing⟩

/-- WRDI follows a failed erase or program unit only (R305). -/
theorem State.Flow.failed_of_wrdi (h : s.Flow t) (hin : s.eng.pc.inFlight = true) (ht : t.eng.pc = .wrdi) :
    s.eng.pc = .eFailed ∨ s.eng.pc = .pFailed := by
  have hedges : ∀ e ∈ unitEdges, e.2 ≠ .wrdi := by decide
  have hstill : ∀ p ∈ [Pc.eUnit, .pUnit, .rUnit, .respond], p ≠ .wrdi := by decide
  cases h with
  | disables failed => exact failed
  | rests out _ => rw [hin] at out; cases out
  | sends edge => exact absurd ht (hedges _ (unitFrameEdges_subset edge))
  | awaits edge => exact absurd ht (hedges _ (awaitEdges_subset edge))
  | readies edge => exact absurd ht (hedges _ (readyEdges_subset edge))
  | settles edge => exact absurd ht (hedges _ (settledEdges_subset edge))
  | polls polling pc => simp [← pc, ht, pollingStates] at polling
  | loops _ _ loop | reads _ _ loop | recovers _ _ loop => exact absurd ht (hstill _ loop.pc_mem)
  | breaks _ pc | givesUp _ pc | cancels _ _ pc => rw [pc] at ht; cases ht
  | responds _ result =>
    rw [result] at ht
    rcases s.respond_pc with hpc | hpc <;> rw [hpc] at ht <;> cases ht

theorem State.Protocol.seq_noWrdi (hs : s.Protocol) (hin : s.eng.pc.inFlight = true) (h : s.seq = .next t)
    (hread : s.eng.op = hostRead) : t.eng.pc ≠ .wrdi := by
  intro ht
  rcases (State.flow_of_seq h).failed_of_wrdi hin ht with hp | hp
  · obtain ⟨heq, -⟩ := hs.planStands.running hostErase (by rw [hp]; rfl)
    exact absurd (heq.symm.trans hread) (by decide)
  · obtain ⟨heq, -⟩ := hs.planStands.running hostWrite (by rw [hp]; rfl)
    exact absurd (heq.symm.trans hread) (by decide)

/-- Every move of a request in flight is confined to its range. -/
theorem State.Protocol.confined_seq (hs : s.Protocol) (hc : s.Confined base) (hin : s.eng.pc.inFlight = true)
    (h : s.seq = .next t) : t.Confined base := by
  have hledger := State.ledger_seq (exact := false) (by simp) h
  have hcfg : t.cfg = s.cfg := congrArg Ledger.cfg hledger
  have hop : t.eng.op = s.eng.op := congrArg Ledger.op hledger
  have hoffset : t.eng.offset = s.eng.offset := congrArg Ledger.offset hledger
  have hlength : t.eng.length = s.eng.length := congrArg Ledger.length hledger
  have haddresses (a : Nat) : t.Addresses a ↔ s.Addresses a := by
    rw [State.Addresses, State.Addresses, hoffset, hlength]
  have hmove := hs.staysInStep (Pc.not_ready_of_inFlight hin) h
  obtain ⟨hown, houtside, hread⟩ := hmove.effect.confined hs hc hin
  refine ⟨⟨fun p hp => ?_, fun a ha => houtside a (mt (haddresses a).2 ha), fun hr => hread (hop ▸ hr)⟩, fun hp => ?_,
    fun hr => hs.seq_noWrdi hin h (hop ▸ hr)⟩
  · obtain ⟨hwithin, hload⟩ := hown p hp
    exact ⟨fun a ha => (haddresses a).2 (hwithin a (hcfg ▸ ha)), fun hr => hload (hop ▸ hr)⟩
  · obtain ⟨hplace, hunit, hpage⟩ := hmove.unit hp
    rw [hpage, hc.currentPage hplace, hcfg, hoffset, hunit]

theorem State.Confined.takeMove (hc : s.Confined base) : s.takeMove.Confined base :=
  ⟨⟨fun p hp => ⟨(hc.device.own p hp).within, (hc.device.own p hp).load⟩, hc.device.outside, hc.device.read⟩, hc.page,
    hc.noWrdi⟩

theorem State.Protocol.confined_runRequest (hs : s.Protocol) (hc : s.Confined base) (h : s.runRequest = .next t) :
    t.Confined base := by
  refine (runInFlight_induction (R := fun u v => u.Protocol ∧ u.Confined base → v.Protocol ∧ v.Confined base)
    (fun _ hu => hu) (fun u v w hin hmove hrest ⟨hu, hconf⟩ => hrest ⟨?_, ?_⟩) h ⟨hs, hc⟩).2
  · exact hu.transition (Pc.not_ready_of_inFlight hin) hmove
  · exact hu.takeMove.confined_seq hconf.takeMove hin (hu.transition_eq ▸ hmove)

/-- From a device that executes nothing, the run of a request begins confined. -/
theorem State.Begins.confined (h : s.Begins t) (hidle : s.dev.busy = false) : t.Confined s.dev := by
  have hnone : t.dev.pending = none := by rw [h.dev]; simpa [Device.busy] using hidle
  have hoff : t.eng.pc ∉ insideStates ∧ t.eng.pc ≠ .wrdi := by
    have hstates : ∀ p ∈ [Pc.eUnit, .pUnit, .rUnit, .respond], p ∉ insideStates ∧ p ≠ .wrdi := by decide
    rcases h.place with hp | ⟨hp, -⟩ | ⟨hloop, -⟩
    · rw [hp]; decide
    · rw [hp]; decide
    · exact hstates _ hloop.pc_mem
  refine ⟨⟨fun p hp => ?_, fun a _ => by rw [h.dev], fun _ => by rw [h.dev]⟩, fun hp => absurd hp hoff.1,
    fun _ => hoff.2⟩
  rw [hnone] at hp
  cases hp

/-- A whole request is confined to its range. -/
theorem State.Protocol.confined_exec (hs : s.Protocol) (hp : s.eng.pc.ready = true) (hidle : s.dev.busy = false)
    {i : Instr} {r : Request} (hi : encode i = .request r) (h : Machine.exec i s = .next t) :
    t.Confined s.dev ∧ t.eng.op = r.op ∧ t.eng.offset = r.offset ∧ t.eng.length = r.length := by
  have hconf := (s.accept r).dispatch_begins.confined hidle
  obtain ⟨-, -, -, -, hop, hoffset, hlength, -⟩ := State.fields_of_order (order_of_exec hi hp hs.noReset h)
  exact ⟨(hs.dispatch hp r).confined_runRequest hconf (runRequest_of_exec hi hp h), hop, hoffset, hlength⟩

/-- A host operation that the engine is not READY for is held (R281). -/
theorem exec_of_not_ready {i : Instr} (hi : i.isCommand = false) (hp : s.eng.pc.ready = false) :
    exec i s = .next s := by
  cases i with
  | geometry | erase => simp [exec, execGeometry, execErase, State.serve, hp]
  | read | write => simp [exec, execRead, execWrite, State.serveBuffered, hp]
  | _ => cases hi

/-- Settles O55: the bytes an ERASE or WRITE makes its device write are those of its own units. -/
theorem arrayChangesStayInTheRange : Obligations.ArrayChangesStayInTheRange := by
  intro s t offset length buf i hs hidle hi h a ha
  obtain ⟨op, hcommand, hencode⟩ : ∃ op, i.isCommand = false ∧ encode i = .request ⟨op, offset, length, buf⟩ := by
    rcases hi with rfl | rfl <;> exact ⟨_, rfl, rfl⟩
  cases hp : s.eng.pc.ready with
  | false =>
    rw [exec_of_not_ready hcommand hp] at h
    cases h
    rfl
  | true =>
    obtain ⟨hconf, -, hoffset, hlength⟩ := hs.confined_exec hp hidle hencode h
    exact hconf.device.outside a (by rwa [State.Addresses, hoffset, hlength])

/-- Settles O56: a READ makes its device load pages only. -/
theorem readChangesOnlyTheCache : Obligations.ReadChangesOnlyTheCache := by
  intro s t offset length buf hs hidle h
  cases hp : s.eng.pc.ready with
  | false =>
    rw [exec_of_not_ready rfl hp] at h
    cases h
    exact ⟨rfl, .inl (by simpa [Device.busy] using hidle)⟩
  | true =>
    obtain ⟨hconf, hop, -, -⟩ := hs.confined_exec hp hidle (r := ⟨hostRead, offset, length, buf⟩) rfl h
    refine ⟨hconf.device.read hop, ?_⟩
    cases hpending : t.dev.pending with
    | none => exact .inl rfl
    | some p =>
      obtain ⟨page, rfl⟩ := (hconf.device.own p hpending).load hop
      exact .inr ⟨page, rfl⟩

end
end Sys2Proof.Machine
end

/-! ### Encoding and decoding are inverse

The two directions rest on one fact per frame format: what the reader of the format makes of the encoder's bytes, and
from which bytes it accepts (the `read…_ok` lemmas of Laws/Decode.lean). -/

section
namespace Sys2Proof

/-- A field read from its own value is the field. -/
@[simp] theorem Machine.field16_of_toNat (h : Half) : Machine.field16 h.toNat = h := by
  simp [Machine.field16]

/-- The engine's header for a page register is the encoder's for the page. -/
@[simp] theorem Machine.pageFrame_toNat (opc : Byte) (page : Half) :
    Machine.pageFrame opc page.toNat = pageHeader opc page := by
  simp [Machine.pageFrame, pageHeader]

/-- A run of fixed bytes reads as the format ID with their number (R102, R108). -/
theorem decodeFrame_rdid (dummy rx : Nat) :
    decodeFrame ⟨opcRdid :: List.replicate dummy 0x00, rx⟩ = .ok (.rdid dummy rx) := by
  have hreader : decodeFrame ⟨opcRdid :: List.replicate dummy 0x00, rx⟩ =
      readId opcRdid .rdid (List.replicate dummy 0x00) rx := rfl
  rw [hreader]
  simp [readId]

/-- PLD at any column, with any data. -/
theorem decodeFrame_pld_col (col : Half) (data : List Byte) :
    decodeFrame ⟨opcPld :: hiByte col :: loByte col :: data, 0⟩ = .ok (.pld col data) := by
  have hreader : decodeFrame ⟨opcPld :: hiByte col :: loByte col :: data, 0⟩ =
      .ok (.pld (joinBytes (hiByte col) (loByte col)) data) := rfl
  rw [hreader, joinBytes_hi_lo]

/-- Settles O1: each format's reader takes the encoder's bytes apart. Of the operand ranges only RDC's needs its bound:
a frame that receives nothing is no RDC. -/
theorem decodeOfEncodeIsIdentity : Obligations.DecodeOfEncodeIsIdentity := by
  intro c i hwf
  cases i with
  | rdid dummy rx => exact decodeFrame_rdid dummy rx
  | rdsr reg => exact decodeFrame_rdsr reg
  | wrsr reg value => exact decodeFrame_wrsr reg value
  | wren => exact decodeFrame_wren
  | wrdi => exact decodeFrame_wrdi
  | prdc page => simpa [decode, encode] using decodeFrame_prdc page.toNat
  | rdc col n =>
    have hn : n ≠ 0 := Nat.one_le_iff_ne_zero.1 hwf.1
    simpa [decode, encode, Machine.readCacheFrame] using decodeFrame_rdc col.toNat n hn
  | pld col data => exact decodeFrame_pld_col col data
  | pex page => simpa [decode, encode] using decodeFrame_pex page.toNat
  | bers page => simpa [decode, encode] using decodeFrame_bers page.toNat
  | geometry | erase | read | write => rfl

/-- What a frame decodes to is carried by that frame. -/
theorem encode_of_decodeFrame {f : Frame} {i : Instr} (h : decodeFrame f = .ok i) : encode i = .frame f := by
  obtain ⟨tx, rx⟩ := f
  unfold decodeFrame at h
  split at h
  · cases h
  · rename_i opc rest htx
    obtain rfl : tx = opc :: rest := htx
    split_ifs at h with hopc hopc hopc hopc hopc hopc hopc hopc hopc hopc <;> subst hopc
    · obtain ⟨hrest, rfl⟩ := readId_ok h
      rw [encode, ← hrest]
    · obtain ⟨reg, rfl, rfl, rfl⟩ := readRreg_ok h
      rfl
    · obtain ⟨reg, value, rfl, rfl, rfl⟩ := readWreg_ok h
      rfl
    · obtain ⟨rfl, rfl, rfl⟩ := readOp_ok h
      rfl
    · obtain ⟨rfl, rfl, rfl⟩ := readOp_ok h
      rfl
    · obtain ⟨hi, lo, rfl, rfl, rfl⟩ := readPage_ok h
      simp [encode, pageHeader]
    · obtain ⟨hi, lo, rfl, -, rfl⟩ := readRcache_ok h
      simp [encode]
    · obtain ⟨hi, lo, data, rfl, rfl, rfl⟩ := readWcache_ok h
      simp [encode]
    · obtain ⟨hi, lo, rfl, rfl, rfl⟩ := readPage_ok h
      simp [encode, pageHeader]
    · obtain ⟨hi, lo, rfl, rfl, rfl⟩ := readPage_ok h
      simp [encode, pageHeader]

/-- Settles O2: each port item is the encoding of what its decoder accepts. -/
theorem encodeOfDecodeIsIdentity : Obligations.EncodeOfDecodeIsIdentity := by
  intro item i h
  cases item with
  | frame f => exact encode_of_decodeFrame h
  | request r => exact Machine.encode_of_decodeRequest h

/-- Settles O3: the words are closed, and the decoder computes on them. -/
theorem specWordsDecode : Obligations.SpecWordsDecode := by
  unfold Obligations.SpecWordsDecode
  decide

/-- The high byte of a field by arithmetic (R104). -/
theorem hiByte_eq_ofNat (h : Half) : hiByte h = BitVec.ofNat 8 (h.toNat / 256) := by
  apply BitVec.eq_of_toNat_eq
  simp [hiByte, Nat.shiftRight_eq_div_pow]

/-- The low byte of a field by arithmetic (R104). -/
theorem loByte_eq_ofNat (h : Half) : loByte h = BitVec.ofNat 8 (h.toNat % 256) := by
  apply BitVec.eq_of_toNat_eq
  simp [loByte]

/-- Settles O4: the encoder puts the two bytes of the field in these places. -/
theorem addressFieldsTravelHighByteFirst : Obligations.AddressFieldsTravelHighByteFirst := by
  intro h n d
  dsimp only
  rw [← hiByte_eq_ofNat, ← loByte_eq_ofNat]
  exact ⟨rfl, rfl, rfl, rfl, rfl⟩

end Sys2Proof
end

/-! ### Unassigned host operations -/

section
namespace Sys2Proof.Machine

/-- A host operation code from 0x04 on is unassigned (R110). -/
theorem decodeRequest_of_unassigned {r : Request} (h : 4 ≤ r.op.toNat) :
    decodeRequest r = .error (.unassignedOp r.op) := by
  have hne {op : Byte} (hop : op.toNat < 4) : r.op ≠ op := fun e => by rw [e] at h; omega
  unfold decodeRequest
  rw [if_neg (hne (by decide)), if_neg (hne (by decide)), if_neg (hne (by decide)), if_neg (hne (by decide))]

section
variable {s : State} {r : Request}

/-- A record that fits and does not decode is taken and answered (R110). -/
theorem step_of_undecoded {rest : List Request} {e : DecodeError} (hv : s.cfg.valid = true)
    (hf : s.framePort = none) (hp : s.eng.pc.ready = true) (hr : s.resetNow = false)
    (hq : s.host.requests = r :: rest) (hw : recordFits s.cfg r = true) (hd : decodeRequest r = .error e) :
    step s = execUnassigned r (s.takeRecord rest) := by
  rw [step, fetch_of_ready hv hf hp hr, fetchRequest_of_error (s := s.takeMove) hq hw hd,
    State.takeRecord_eq_of_ready hp]

/-- The answer to an unassigned operation is its acceptance, the error and the response (R110, R307). -/
theorem execUnassigned_of_ready (hp : s.eng.pc.ready = true) (hs : s.NoReset) :
    execUnassigned r s = .next ((s.accept r).raise .invalidArgument).takeMove.respond := by
  rw [execUnassigned, State.serve, if_pos hp]
  exact State.runRequest_of_respond (s := (s.accept r).raise .invalidArgument) rfl (State.resetNow_of_noReset _ hs)

end

/-- Settles O50: the record is taken, and its acceptance, the error and the response follow with no frame between. -/
theorem unassignedOperationsAreInvalid : Obligations.UnassignedOperationsAreInvalid := by
  intro s r rest hv hf hp hs hq hoffset hlength hop
  have hw : recordFits s.cfg r = true := by simp [recordFits, hoffset, hlength]
  have hs' : (s.takeRecord rest).NoReset := fun hm => hs (List.mem_of_mem_tail hm)
  have hstep := (step_of_undecoded hv hf hp (s.resetNow_of_noReset hs) hq hw (decodeRequest_of_unassigned hop)).trans
    (execUnassigned_of_ready hp hs')
  refine ⟨_, hstep, ?_, ⟨rfl, rfl, rfl, rfl⟩, rfl, ?_, ?_⟩
  · have hgeometry : r.op ≠ hostGeometry := fun e => absurd (e ▸ hop) (by decide)
    simp [State.responseRecord, hgeometry]
  · exact State.AnsweredBy.pc_of_accept (s := s) (r := r) ⟨rfl, _, rfl, rfl⟩ hp
  · simp [State.takeRecord, ErrorCode.leavesBusy]

end Sys2Proof.Machine
end

/-! ### The SPI commands whose frame is answered -/

section
namespace Sys2Proof.Machine

/-- The state in which the device takes a frame: the transport's draw is taken (R80 (d)). -/
def State.delivered (s : State) : State := { s with draws := s.draws.pastTransport }

section
variable {s : State}

@[simp] theorem State.delivered_cfg : s.delivered.cfg = s.cfg := rfl
@[simp] theorem State.delivered_dev : s.delivered.dev = s.dev := rfl

/-- An answered command: the reply and the device are those of its action, and nothing else changes. -/
theorem exec_answered {i : Instr} {bytes : List Byte} {d : Device} (hi : i.isCommand = true)
    (ha : s.draws.transportNow = .answered) (hbytes : (deviceOf 0 i s.delivered).1 = bytes)
    (hd : (deviceOf 0 i s.delivered).2.dev = d) :
    ∃ t, exec i s = .next t ∧ t.reply = .data bytes ∧ State.SameEngine s t ∧ t.dev = d := by
  refine ⟨_, exec_command hi s, ?_, State.transact_sameEngine (deviceOnly_deviceOf 0 i) s, ?_⟩ <;>
    rw [State.transact_answered ha]
  · exact congrArg Reply.data hbytes
  · exact hd

/-- DevCheck passes a frame to an idle device (R129). -/
theorem State.devCheck_of_idle (hidle : s.dev.busy = false) : s.devCheck = s := by simp [State.devCheck, hidle]

/-- An honest reply of a device without fault (R84). -/
theorem State.answer_of_noFault (h : s.dev.dfault = false) (honest : List Byte) : s.answer honest = (honest, s) := by
  simp [State.answer, h]

/-- RDID of the configured shape, to an idle device (R130). -/
theorem devRdid_of_idle (hidle : s.dev.busy = false) :
    devRdid s.cfg.rdidDummyBytes s.cfg.rdidRxLen s = s.answerAny s.cfg.rdidRxLen := by
  simp [devRdid, State.devCheck_of_idle hidle]

/-- WRSR writes BP through register 0xA0, and any other register is a device fault (R132). -/
theorem devWrsr_of_idle (reg value : Byte) (hidle : s.dev.busy = false) :
    (devWrsr reg value s).1 = [] ∧
      (devWrsr reg value s).2.dev =
        if reg = protectReg then { s.dev with bp := value } else { s.dev with dfault := true } := by
  simp only [devWrsr, State.devCheck_of_idle hidle]
  split <;> exact ⟨rfl, rfl⟩

/-- PRDC of a page of the device starts a load (R135). -/
theorem devPrdc_of_idle {page : Half} (hidle : s.dev.busy = false) (hpage : page.toNat < s.cfg.numPages) :
    devPrdc page s = ([], s.begin (.load page.toNat)) := by
  simp only [devPrdc, State.devCheck_of_idle hidle, if_neg hpage.not_ge, State.answerNothing]

/-- PEX of a page of the device with WEL = 1 starts a program (R139). -/
theorem devPex_of_idle {page : Half} (hidle : s.dev.busy = false) (hwel : s.dev.wel = true)
    (hpage : page.toNat < s.cfg.numPages) : devPex page s = ([], s.begin (.program page.toNat)) := by
  simp [devPex, State.devCheck_of_idle hidle, hwel, hpage.not_ge, State.answerNothing]

/-- BERS of a page of the device with WEL = 1 starts an erase (R138). -/
theorem devBers_of_idle {page : Half} (hidle : s.dev.busy = false) (hwel : s.dev.wel = true)
    (hpage : page.toNat < s.cfg.numPages) : devBers page s = ([], s.begin (.erase page.toNat)) := by
  simp [devBers, State.devCheck_of_idle hidle, hwel, hpage.not_ge, State.answerNothing]

/-- RDC within the page, to a device without fault, reads CACHE and changes nothing (R136). -/
theorem devRdc_of_idle {col : Half} {n : Nat} (hidle : s.dev.busy = false) (hfault : s.dev.dfault = false)
    (hle : col.toNat + n ≤ s.cfg.pageSize) : devRdc col n s = (s.dev.cache.bytes col.toNat n, s) := by
  simp only [devRdc, State.devCheck_of_idle hidle, if_neg hle.not_gt, State.answer_of_noFault hfault]

/-- PLD within the page leaves any value in CACHE but for its data (R137). -/
theorem devPld_of_idle {col : Half} {data : List Byte} (hidle : s.dev.busy = false)
    (hle : col.toNat + data.length ≤ s.cfg.pageSize) :
    (devPld col data s).1 = [] ∧
      (devPld col data s).2.dev =
        { s.dev with cache := s.spoilCache.dev.cache.fill col.toNat data.length fun i => data.getD i 0 } := by
  simp [devPld, State.devCheck_of_idle hidle, hle.not_gt]

end

/-- Settles O13: behind DevCheck the action is a reply of any value. -/
theorem rdidAnswersItsBytes : Obligations.RdidAnswersItsBytes := by
  intro s ha hidle
  have hact := devRdid_of_idle (s := s.delivered) hidle
  obtain ⟨t, hexec, hreply, hsame, hdev⟩ :=
    exec_answered (i := .rdid _ _) rfl ha (congrArg Prod.fst hact) (congrArg (·.2.dev) hact)
  exact ⟨t, _, hexec, hreply, by simp [State.answerAny, Draws.anyBytes], hdev, hsame⟩

/-- Settles O14: either action is DevCheck and one write of the latch. -/
theorem wrenAndWrdiWriteTheLatch : Obligations.WrenAndWrdiWriteTheLatch := fun s ha =>
  ⟨exec_answered (i := .wren) rfl ha rfl (by simp [deviceOf, devWren, Bool.or_comm]),
    exec_answered (i := .wrdi) rfl ha rfl (by simp [deviceOf, devWrdi, Bool.or_comm])⟩

/-- Settles O15: the two clauses are the two branches of the action. -/
theorem wrsrWritesTheProtectionRegister : Obligations.WrsrWritesTheProtectionRegister := by
  intro s reg value ha hidle
  obtain ⟨hbytes, hact⟩ := devWrsr_of_idle (s := s.delivered) reg value hidle
  obtain ⟨t, hexec, hreply, hsame, hdev⟩ := exec_answered (i := .wrsr reg value) rfl ha hbytes hact
  exact ⟨t, hexec, hreply, hsame, fun hreg => hdev.trans (if_pos hreg), fun hreg => hdev.trans (if_neg hreg)⟩

/-- Settles O21: each command passes its checks, so its action begins it. -/
theorem pageCommandsStartTheDevice : Obligations.PageCommandsStartTheDevice := by
  intro s page ha hidle hpage
  refine ⟨?_, fun hwel => ⟨?_, ?_⟩⟩
  · have hact := devPrdc_of_idle (s := s.delivered) hidle hpage
    exact exec_answered (i := .prdc page) rfl ha (congrArg Prod.fst hact) (congrArg (·.2.dev) hact)
  · have hact := devPex_of_idle (s := s.delivered) hidle hwel hpage
    exact exec_answered (i := .pex page) rfl ha (congrArg Prod.fst hact) (congrArg (·.2.dev) hact)
  · have hact := devBers_of_idle (s := s.delivered) hidle hwel hpage
    exact exec_answered (i := .bers page) rfl ha (congrArg Prod.fst hact) (congrArg (·.2.dev) hact)

/-- Settles O22: the reply is the byte list of the cache range. -/
theorem rdcAnswersTheCache : Obligations.RdcAnswersTheCache := by
  intro s col n ha hidle hfault _ hle
  have hact := devRdc_of_idle (s := s.delivered) hidle hfault hle
  obtain ⟨t, hexec, hreply, hsame, hdev⟩ :=
    exec_answered (i := .rdc col n) rfl ha (congrArg Prod.fst hact) (congrArg (·.2.dev) hact)
  exact ⟨t, _, hexec, hreply, Memory.bytes_length _ _ _, fun i hi => Memory.getElem?_bytes _ _ _ _ hi, hdev, hsame⟩

/-- Settles O23: the range that PLD fills reads its data. -/
theorem pldLoadsTheCache : Obligations.PldLoadsTheCache := by
  intro s col data ha hidle hle
  obtain ⟨hbytes, hact⟩ := devPld_of_idle (s := s.delivered) hidle hle
  obtain ⟨t, hexec, hreply, hsame, hdev⟩ := exec_answered (i := .pld col data) rfl ha hbytes hact
  refine ⟨t, hexec, hreply, hsame, fun i hi => ?_, by rw [hdev]; rfl⟩
  rw [hdev]
  simp [Memory.read_fill, hi]

/-! #### Status reads -/

/-- The byte shows BUSY, EFAIL and PFAIL of the device in bits 0, 2 and 3 (R35). -/
def Device.ShownBy (d : Device) (b : Byte) : Prop :=
  b.getLsbD 0 = d.busy ∧ b.getLsbD 2 = d.efail ∧ b.getLsbD 3 = d.pfail

section
variable {s : State}

/-- A read of another register than 0xC0 leaves the device alone, and one of 0xA0 without fault answers BP (R131). -/
theorem devRdsr_of_ne {reg : Byte} (hreg : reg ≠ statusReg) :
    (devRdsr reg s).2.dev = s.dev ∧ (reg = protectReg → s.dev.dfault = false → (devRdsr reg s).1 = [s.dev.bp]) := by
  simp only [devRdsr, if_neg hreg]
  refine ⟨by split <;> simp, fun hprotect hfault => ?_⟩
  rw [if_pos hprotect, State.answer_of_noFault hfault]

/-- An answered status read: the pending command may complete first, and a device without fault then shows itself
(R131). -/
theorem exec_status (ha : s.draws.transportNow = .answered) :
    ∃ t, exec (.rdsr statusReg) s = .next t ∧ State.SameEngine s t ∧ t.dev = s.delivered.maybeComplete.dev ∧
      (s.dev.dfault = false → ∃ b, t.reply = .data [b] ∧ t.dev.ShownBy b) := by
  set u := s.delivered.maybeComplete with hu
  have hact : (devRdsr statusReg s.delivered).2.dev = u.dev := by simp [devRdsr, hu]
  obtain ⟨t, hexec, hreply, hsame, hdev⟩ := exec_answered (i := .rdsr statusReg) rfl ha rfl hact
  refine ⟨t, hexec, hsame, hdev, fun hfault => ⟨statusByte u.dev u.draws.byteNow, ?_, ?_⟩⟩
  · have hufault : u.dev.dfault = false := (State.maybeComplete_dfault _).trans hfault
    rw [hreply]
    simp [deviceOf, devRdsr, ← hu, State.answer, hufault]
  · rw [hdev]
    exact statusByte_bits _ _

/-- Where the draw does not let the pending command complete, a status read finds the device as it is (R80 (a)). -/
theorem State.maybeComplete_of_waiting (h : s.dev.busy = true → s.draws.completes.head? = some false) :
    s.maybeComplete.dev = s.dev := by
  simp only [State.maybeComplete]
  split_ifs with hbusy hcompletes
  · simp [Draws.completesNow, List.headD_eq_head?_getD, h hbusy] at hcompletes
  · rfl
  · rfl

/-- Where the draw lets it, the pending command completes (R80 (a)). -/
theorem State.maybeComplete_of_completing {p : Pending} (hp : s.dev.pending = some p)
    (hc : s.draws.completes.head? = some true) :
    s.maybeComplete = State.complete { s with draws := s.draws.pastCompletes } := by
  simp [State.maybeComplete, Device.busy, hp, Draws.completesNow, List.headD_eq_head?_getD, hc]

end

/-- Settles O16: nothing completes, so the byte shows the device as it was. -/
theorem statusReadShowsTheLatches : Obligations.StatusReadShowsTheLatches := by
  intro s ha hfault hwaiting
  obtain ⟨t, hexec, hsame, hdev, hbyte⟩ := exec_status ha
  rw [State.maybeComplete_of_waiting (s := s.delivered) hwaiting, State.delivered_dev] at hdev
  obtain ⟨b, hreply, hshown⟩ := hbyte hfault
  exact ⟨t, b, hexec, hreply, hdev, hsame, hdev ▸ hshown⟩

/-- Settles O17: a register read answers one byte, and that of 0xA0 is BP. -/
theorem otherRegisterReads : Obligations.OtherRegisterReads := by
  intro s reg ha hreg
  obtain ⟨hact, hbp⟩ := devRdsr_of_ne (s := s.delivered) hreg
  obtain ⟨b, hb⟩ := List.length_eq_one_iff.1 (devRdsr_length reg s.delivered)
  obtain ⟨t, hexec, hreply, hsame, hdev⟩ := exec_answered (i := .rdsr reg) rfl ha hb hact
  exact ⟨t, b, hexec, hreply, hdev, hsame, fun hprotect hfault =>
    List.singleton_inj.1 (hb.symm.trans (hbp hprotect hfault))⟩

/-! #### Completions -/

/-- The state in which the pending command completes at a status read: the draws of the frame and of the completion are
taken (R80 (a), (d)). -/
def State.atCompletion (s : State) : State := { s.delivered with draws := s.delivered.draws.pastCompletes }

section
variable {s : State}

/-- An answered status read at which the pending command completes (R131, R140). -/
theorem exec_status_completing {p : Pending} (ha : s.draws.transportNow = .answered) (hp : s.dev.pending = some p)
    (hc : s.draws.completes.head? = some true) :
    ∃ t, exec (.rdsr statusReg) s = .next t ∧ State.SameEngine s t ∧ t.dev = s.atCompletion.complete.dev ∧
      Device.Completed s.cfg p s.dev t.dev ∧ (s.dev.dfault = false → ∃ b, t.reply = .data [b] ∧ t.dev.ShownBy b) := by
  obtain ⟨t, hexec, hsame, hdev, hbyte⟩ := exec_status ha
  rw [State.maybeComplete_of_completing (s := s.delivered) hp hc] at hdev
  exact ⟨t, hexec, hsame, hdev, hdev ▸ State.complete_completed s.atCompletion hp, hbyte⟩

/-- A completed load leaves the page in CACHE, column by column (R140). -/
theorem State.read_cache_complete_load {page c : Nat} (hp : s.dev.pending = some (.load page))
    (hc : c < s.cfg.pageSize) :
    s.complete.dev.cache.read c = s.dev.array.read (page * s.cfg.pageSize + c) := by
  simp [State.complete, hp, Memory.read_fill, hc, pageBase]

theorem Draws.succeedsNow_of_head {d : Draws} {ok : Bool} (h : d.succeeds.head? = some ok) : d.succeedsNow = ok := by
  simp [Draws.succeedsNow, List.headD_eq_head?_getD, h]

/-- Of the device, the erase itself writes ARRAY only. -/
theorem State.eraseArray_dev (s : State) (page : Nat) (ok : Bool) :
    (s.eraseArray page ok).dev = { s.dev with array := (s.eraseArray page ok).dev.array } := by
  unfold State.eraseArray
  split <;> rfl

/-- Of the device, the program itself writes ARRAY only. -/
theorem State.programArray_dev (s : State) (page : Nat) (ok : Bool) :
    (s.programArray page ok).dev = { s.dev with array := (s.programArray page ok).dev.array } := by
  unfold State.programArray
  split <;> rfl

/-- A successful erase without protection leaves its block erased (R81). -/
theorem State.eraseArray_inside {page a : Nat} (hbp : s.dev.bp = 0x00) (h : (Pending.erase page).Writes s.cfg a) :
    (s.eraseArray page true).dev.array.read a = erasedByte := by
  simp only [State.eraseArray, hbp]
  exact (Memory.read_clear _ _ _ _).trans (if_pos h)

/-- A successful program without protection stores CACHE in an erased page (R82). -/
theorem State.programArray_inside {page c : Nat} (hbp : s.dev.bp = 0x00)
    (herased : s.dev.array.isErased (pageBase s.cfg page) s.cfg.pageSize = true) (hc : c < s.cfg.pageSize) :
    (s.programArray page true).dev.array.read (pageBase s.cfg page + c) = s.dev.cache.read c := by
  simp [State.programArray, hbp, herased, Memory.read_fill, hc]

/-- The device after a completed erase: ARRAY as the erase leaves it, and the latches exactly (R140). -/
theorem State.complete_erase_dev {page : Nat} {ok : Bool} (hp : s.dev.pending = some (.erase page))
    (hok : s.draws.succeeds.head? = some ok) :
    s.complete.dev = { s.dev with
      array := (State.eraseArray { s with draws := s.draws.pastSucceeds } page ok).dev.array
      cache := s.complete.dev.cache
      pending := none
      wel := false
      efail := !ok } := by
  simp only [State.complete, hp, State.completeErase, State.spoilCache_dev, Draws.succeedsNow_of_head hok]
  rw [State.eraseArray_dev]

/-- The device after a completed program: ARRAY as the program leaves it, and the latches exactly (R140). -/
theorem State.complete_program_dev {page : Nat} {ok : Bool} (hp : s.dev.pending = some (.program page))
    (hok : s.draws.succeeds.head? = some ok) :
    s.complete.dev = { s.dev with
      array := (State.programArray { s with draws := s.draws.pastSucceeds } page ok).dev.array
      cache := s.complete.dev.cache
      pending := none
      wel := false
      pfail := !ok } := by
  simp only [State.complete, hp, State.completeProgram, State.spoilCache_dev, Draws.succeedsNow_of_head hok]
  rw [State.programArray_dev]

end

/-- Settles O18: a completed load fills CACHE from the page and leaves the rest of the device. -/
theorem loadFillsTheCache : Obligations.LoadFillsTheCache := by
  intro s p ha hp hc
  obtain ⟨t, hexec, hsame, hdev, hcompleted, hbyte⟩ := exec_status_completing ha hp hc
  refine ⟨t, hexec, hsame, fun c hcol => ?_, hcompleted.load p rfl, fun hfault => ?_⟩
  · rw [hdev]
    exact State.read_cache_complete_load (s := s.atCompletion) hp hcol
  · obtain ⟨b, hreply, hbusy, -⟩ := hbyte hfault
    exact ⟨b, hreply, by rw [hbusy, Device.busy, hcompleted.idle]; rfl⟩

/-- Settles O19: a completed erase writes the latches and, on success without protection, erases its block. -/
theorem eraseCompletionErasesTheBlock : Obligations.EraseCompletionErasesTheBlock := by
  intro s p ok ha hp hc hok
  obtain ⟨t, hexec, hsame, hdev, hcompleted, -⟩ := exec_status_completing ha hp hc
  rw [State.complete_erase_dev (s := s.atCompletion) hp hok] at hdev
  refine ⟨t, hexec, hsame, by rw [hdev]; rfl, fun hsuccess hbp a hlo hhi => ?_, hcompleted.outside⟩
  subst hsuccess
  rw [hdev]
  exact State.eraseArray_inside hbp ⟨hlo, hhi⟩

/-- Settles O20: a completed program writes the latches and, on success without protection, stores CACHE in an erased
page. -/
theorem programCompletionStoresTheCache : Obligations.ProgramCompletionStoresTheCache := by
  intro s p ok ha hp hc hok
  obtain ⟨t, hexec, hsame, hdev, hcompleted, -⟩ := exec_status_completing ha hp hc
  rw [State.complete_program_dev (s := s.atCompletion) hp hok] at hdev
  refine ⟨t, hexec, hsame, by rw [hdev]; rfl, fun hsuccess hbp hblank c hcol => ?_, hcompleted.outside⟩
  subst hsuccess
  rw [hdev]
  exact State.programArray_inside hbp ((Memory.isErased_iff _ _ _).2 hblank) hcol

end Sys2Proof.Machine
end

/-! ### The await of a unit -/

section
namespace Sys2Proof.Machine

section
variable {s : State} {polling : Pc}

/-! #### One status read -/

/-- What a status read of a unit's await does to the engine: its frame enters the trace, and an answer is counted, or
the request ends (R172). -/
theorem State.pollUnit_spec (s : State) (polling : Pc) :
    let t := s.pollUnit polling
    t.trace = s.trace ++ [.frame [opcRdsr, statusReg] 1] ∧
      (t.reply ≠ .transportError → ∃ b, t.reply = .data [b] ∧
        t.eng = { s.eng with status := b, polls := s.eng.polls + 1, pc := polling }) ∧
      (t.reply = .transportError → t.eng = (s.raise .transportError).eng) := by
  obtain ⟨u, hu, -, ⟨hr, hp⟩ | ⟨b, hr, hp⟩⟩ := s.poll_spec polling fun t => t.abortUnit .transportError <;>
    simp [State.pollUnit, hp, hr, hu.trace, hu.eng]

/-- A status read leaves MASK alone, however it ends. -/
theorem State.pollUnit_mask (s : State) (polling : Pc) : (s.pollUnit polling).eng.mask = s.eng.mask := by
  obtain ⟨-, heng | ⟨_, heng⟩⟩ := s.pollUnit_polled polling <;> simp [heng]

/-- An error that may leave the device busy sets MAYBE_BUSY (R307, R309). -/
theorem State.raise_eng_of_leavesBusy {e : ErrorCode} (he : e.leavesBusy = true) :
    (s.raise e).eng = { s.eng with result := e, count := 0, maybeBusy := true, pc := .respond } := by
  simp [he]

/-! #### The settle decision, branch by branch (R172) -/

/-- Busy clear with a bit of MASK set is a failed unit. -/
theorem State.seqBusy_of_failed {settled failed : State → State} (hbusy : busyBit s.eng.status = false)
    (hmask : s.eng.status &&& s.eng.mask ≠ 0) : s.seqBusy polling settled failed = failed s := by
  rw [State.seqBusy, settle, if_pos hbusy, if_pos hmask]

/-- Busy clear with no bit of MASK set is a settled unit. -/
theorem State.seqBusy_of_settled {settled failed : State → State} (hbusy : busyBit s.eng.status = false)
    (hmask : s.eng.status &&& s.eng.mask = 0) : s.seqBusy polling settled failed = settled s := by
  rw [State.seqBusy, settle, if_pos hbusy, if_neg (not_not.2 hmask)]

/-- Where a failed unit goes on as a settled one, MASK decides nothing (R261). -/
theorem State.seqBusy_of_clear {settled : State → State} (hbusy : busyBit s.eng.status = false) :
    s.seqBusy polling settled settled = settled s := by
  by_cases hmask : s.eng.status &&& s.eng.mask = 0
  · exact State.seqBusy_of_settled hbusy hmask
  · exact State.seqBusy_of_failed hbusy hmask

/-- Busy set at the poll limit is a timeout. -/
theorem State.seqBusy_of_limit {settled failed : State → State} (hbusy : busyBit s.eng.status = true)
    (hpolls : s.eng.polls = s.cfg.pollLimit) : s.seqBusy polling settled failed = s.abortUnit .timeout := by
  simp [State.seqBusy, settle, hbusy, hpolls]

/-- Busy set away from the poll limit asks for one more read. -/
theorem State.seqBusy_of_again {settled failed : State → State} (hbusy : busyBit s.eng.status = true)
    (hpolls : s.eng.polls ≠ s.cfg.pollLimit) :
    s.seqBusy polling settled failed = s.wait.pollUnit polling := by
  simp [State.seqBusy, settle, hbusy, hpolls]

/-! #### The sequencer in an await -/

/-- Each await has its MASK and its polling state (R170, R171). -/
theorem State.seq_of_await {mask : Byte}
    (h : (s.eng.pc = .eCmd ∧ mask = efailMask ∧ polling = .eBusy) ∨
      (s.eng.pc = .pCmd ∧ mask = pfailMask ∧ polling = .pBusy) ∨
        (s.eng.pc = .rPageLoaded ∧ mask = noMask ∧ polling = .rBusy)) :
    s.seq = .next ((s.startAwait mask).pollUnit polling) := by
  obtain ⟨hp, rfl, rfl⟩ | ⟨hp, rfl, rfl⟩ | ⟨hp, rfl, rfl⟩ := h <;> simp only [State.seq, hp] <;> rfl

/-- In an erase or program unit's polling state, a settled unit is counted and a failed one takes its failure branch
(R222, R242). -/
theorem State.seq_of_unit_busy {ready failed : Pc}
    (h : (s.eng.pc = .eBusy ∧ polling = .eBusy ∧ ready = .eReady ∧ failed = .eFailed) ∨
      (s.eng.pc = .pBusy ∧ polling = .pBusy ∧ ready = .pReady ∧ failed = .pFailed)) :
    s.seq = .next (s.seqBusy polling (·.unitReady ready) (·.goto failed)) := by
  obtain ⟨hp, rfl, rfl, rfl⟩ | ⟨hp, rfl, rfl, rfl⟩ := h <;> simp only [State.seq, hp] <;> rfl

/-- In a slice's polling state there is one way on (R261). -/
theorem State.seq_of_rBusy (hp : s.eng.pc = .rBusy) :
    s.seq = .next (s.seqBusy .rBusy (·.goto .rReady) (·.goto .rReady)) := by
  simp only [State.seq, hp, State.seqRBusy]

/-- The three polling states differ in where a unit that is not busy goes on. -/
theorem State.seq_of_busy (h : s.eng.pc = .eBusy ∨ s.eng.pc = .pBusy ∨ s.eng.pc = .rBusy) :
    ∃ settled failed, s.seq = .next (s.seqBusy s.eng.pc settled failed) := by
  obtain hp | hp | hp := h
  · exact ⟨_, _, hp ▸ State.seq_of_unit_busy (.inl ⟨hp, rfl, rfl, rfl⟩)⟩
  · exact ⟨_, _, hp ▸ State.seq_of_unit_busy (.inr ⟨hp, rfl, rfl, rfl⟩)⟩
  · exact ⟨_, _, hp ▸ State.seq_of_rBusy hp⟩

/-- Busy set at the poll limit ends the request without a frame (R172). -/
theorem State.seq_of_busy_at_limit (h : s.eng.pc = .eBusy ∨ s.eng.pc = .pBusy ∨ s.eng.pc = .rBusy)
    (hbusy : busyBit s.eng.status = true) (hpolls : s.eng.polls = s.cfg.pollLimit) :
    s.seq = .next (s.abortUnit .timeout) := by
  obtain ⟨settled, failed, hseq⟩ := State.seq_of_busy h
  rw [hseq, State.seqBusy_of_limit hbusy hpolls]

/-- Busy set away from the poll limit waits and reads the status again (R172). -/
theorem State.seq_of_busy_again (h : s.eng.pc = .eBusy ∨ s.eng.pc = .pBusy ∨ s.eng.pc = .rBusy)
    (hbusy : busyBit s.eng.status = true) (hpolls : s.eng.polls ≠ s.cfg.pollLimit) :
    s.seq = .next (s.wait.pollUnit s.eng.pc) := by
  obtain ⟨settled, failed, hseq⟩ := State.seq_of_busy h
  rw [hseq, State.seqBusy_of_again hbusy hpolls]

end

/-- Settles O36: the first read of an await is a status read from POLLS = 0. -/
theorem awaitBeginsWithAStatusRead : Obligations.AwaitBeginsWithAStatusRead := by
  intro s mask polling h
  obtain ⟨htrace, hanswer, herror⟩ := (s.startAwait mask).pollUnit_spec polling
  exact ⟨_, State.seq_of_await h, htrace, (s.startAwait mask).pollUnit_mask polling, hanswer, fun hr =>
    (herror hr).trans (State.raise_eng_of_leavesBusy rfl)⟩

/-- Settles O37: each clause is one branch of the settle decision. -/
theorem awaitSettlesOnTheStatusByte : Obligations.AwaitSettlesOnTheStatusByte := by
  intro s
  refine ⟨fun polling ready failed h => ⟨fun hbusy hmask => ?_, fun hbusy hmask => ?_⟩, fun hp hbusy => ?_,
    fun h => ⟨fun hbusy hpolls => ?_, fun hbusy hpolls => ?_⟩⟩
  · rw [State.seq_of_unit_busy h, State.seqBusy_of_failed hbusy hmask]
    rfl
  · rw [State.seq_of_unit_busy h, State.seqBusy_of_settled hbusy hmask]
    rfl
  · rw [State.seq_of_rBusy hp, State.seqBusy_of_clear hbusy]
    rfl
  · exact ⟨_, State.seq_of_busy_at_limit h hbusy hpolls, s.abortUnit_trace _,
      (s.abortUnit_eng _).trans (State.raise_eng_of_leavesBusy rfl)⟩
  · obtain ⟨htrace, hanswer, herror⟩ := s.wait.pollUnit_spec s.eng.pc
    refine ⟨_, State.seq_of_busy_again h hbusy hpolls, ?_, hanswer, fun hr =>
      (herror hr).trans (State.raise_eng_of_leavesBusy rfl)⟩
    rw [htrace]
    simp [opcRdsr, statusReg]

end Sys2Proof.Machine
end

/-! ### The split of an address and of a range into pages

The split by division is the one by shift and mask (R190). The slices of a range follow each other without a gap, so
their lengths sum to the request's (R204), and a range on page boundaries spans as many pages as it holds (R195,
R199). -/

section
namespace Sys2Proof.Machine

section
variable {c : Config}

theorem eq_two_pow_of_isPowerOfTwo {n : Nat} (h : isPowerOfTwo n = true) : n = 2 ^ n.log2 := (eq_of_beq h).symm

theorem isPowerOfTwo_pageSize (h : c.valid = true) : isPowerOfTwo c.pageSize = true := by
  simp only [Config.valid, Bool.and_eq_true] at h
  obtain ⟨⟨⟨⟨⟨⟨⟨⟨-, hpage⟩, -⟩, -⟩, -⟩, -⟩, -⟩, -⟩, -⟩ := h
  exact hpage

theorem pageOf_eq_shiftRight {k : Nat} (hk : c.pageSize = 2 ^ k) (a : Nat) : pageOf c a = a >>> k := by
  rw [pageOf, hk, Nat.shiftRight_eq_div_pow]

theorem colOf_eq_and {k : Nat} (hk : c.pageSize = 2 ^ k) (a : Nat) : colOf c a = a &&& (c.pageSize - 1) := by
  rw [colOf, hk, Nat.and_two_pow_sub_one_eq_mod]

theorem pageOf_lt_numPages (hc : Regular c) {a : Nat} (ha : a < c.totalSize) : pageOf c a < c.numPages := by
  rw [pageOf, Nat.div_lt_iff_lt_mul hc.pageSize_pos, hc.wholePages]
  exact ha

/-- Settles O43: PAGE_SIZE is a power of two, and the device holds whole pages. -/
theorem linearSplitIsShiftAndMask : Obligations.LinearSplitIsShiftAndMask := by
  intro c a hv
  have hc := regular_of_valid hv
  have hk := eq_two_pow_of_isPowerOfTwo (isPowerOfTwo_pageSize hv)
  exact ⟨rfl, rfl, ⟨_, hk, pageOf_eq_shiftRight hk a, colOf_eq_and hk a⟩,
    fun ha => ⟨pageOf_lt_numPages hc ha, Nat.mod_lt _ hc.pageSize_pos⟩⟩

/-! #### Slices -/

section
variable {offset length k : Nat}

/-- Page k + 1 of a request begins behind the request's first byte. -/
theorem offset_lt_page (hpage : 0 < c.pageSize) (offset k : Nat) :
    offset < (offset / c.pageSize + k + 1) * c.pageSize :=
  Nat.lt_mul_of_div_lt (by omega) hpage

/-- The first slice begins at the request's column, the others at the start of their page (R204 (e)). -/
theorem sliceAt_columnOffset (hpage : 0 < c.pageSize) :
    (sliceAt c offset length k).columnOffset = if k = 0 then offset % c.pageSize else 0 := by
  cases k with
  | zero =>
    have hsplit := Nat.div_add_mod' offset c.pageSize
    simp only [sliceAt, add_zero, if_true]
    omega
  | succ k =>
    have hbehind := offset_lt_page hpage offset k
    rw [add_assoc] at hbehind
    simp only [sliceAt, Nat.add_one_ne_zero, if_false]
    omega

/-- The first slice goes to the start of the buffer (R204 (f)). -/
theorem sliceAt_zero_dst : (sliceAt c offset length 0).dst = 0 := by
  have hbefore := Nat.div_mul_le_self offset c.pageSize
  simp only [sliceAt, add_zero]
  omega

/-- Every slice goes to where the one before ends (R204 (f)). -/
theorem sliceAt_succ_dst (hpage : 0 < c.pageSize) (hlength : 0 < length) (hk : k + 1 < spannedPages c offset length) :
    (sliceAt c offset length (k + 1)).dst =
      (sliceAt c offset length k).dst + (sliceAt c offset length k).lengthInPage := by
  have hbehind := offset_lt_page hpage offset k
  have hnext : (offset / c.pageSize + k + 1) * c.pageSize ≤ offset + length - 1 :=
    (Nat.le_div_iff_mul_le hpage).1 (unitPage_le hlength hk)
  have hstep := Nat.succ_mul (offset / c.pageSize + k) c.pageSize
  simp only [sliceAt, ← add_assoc, Nat.succ_eq_add_one] at hstep ⊢
  omega

/-- The last slice ends where the request ends (R204 (c)). -/
theorem sliceAt_last_end (hpage : 0 < c.pageSize) (hlength : 0 < length) (hk : k + 1 = spannedPages c offset length) :
    (sliceAt c offset length k).dst + (sliceAt c offset length k).lengthInPage = length := by
  have hspan : offset / c.pageSize ≤ (offset + length - 1) / c.pageSize := Nat.div_le_div_right (by omega)
  have hlast : offset / c.pageSize + k = (offset + length - 1) / c.pageSize := by
    unfold spannedPages at hk
    omega
  have hbegin : (offset / c.pageSize + k) * c.pageSize ≤ offset + length - 1 :=
    hlast ▸ Nat.div_mul_le_self _ _
  have hend : offset + length - 1 < (offset / c.pageSize + k + 1) * c.pageSize :=
    Nat.lt_mul_of_div_lt (by omega) hpage
  simp only [sliceAt]
  omega

/-- The slices of a plan are numbered from 0 (R203). -/
theorem getElem?_planAccess {sl : Slice} (h : (planAccess c offset length)[k]? = some sl) :
    k < spannedPages c offset length ∧ sl = sliceAt c offset length k := by
  obtain ⟨j, hj, rfl⟩ := Option.map_eq_some_iff.1 (List.getElem?_map.symm.trans h)
  obtain ⟨hk, rfl⟩ := List.getElem?_eq_some_iff.1 hj
  simpa using hk

/-- The slices before one sum to its place in the buffer. -/
theorem sum_lengthInPage (hpage : 0 < c.pageSize) (hlength : 0 < length) (hk : k < spannedPages c offset length) :
    (((List.range k).map (sliceAt c offset length)).map Slice.lengthInPage).sum = (sliceAt c offset length k).dst := by
  induction k with
  | zero => exact sliceAt_zero_dst.symm
  | succ k ih =>
    rw [sliceAt_succ_dst hpage hlength hk, ← ih (by omega)]
    simp [List.range_succ]

/-- The slices sum to the request's length (R204 (c)). -/
theorem sum_planAccess (hpage : 0 < c.pageSize) (hlength : 0 < length) :
    ((planAccess c offset length).map Slice.lengthInPage).sum = length := by
  obtain ⟨n, hn⟩ : ∃ n, spannedPages c offset length = n + 1 := ⟨_, rfl⟩
  calc ((planAccess c offset length).map Slice.lengthInPage).sum
      = (sliceAt c offset length n).dst + (sliceAt c offset length n).lengthInPage := by
        rw [← sum_lengthInPage hpage hlength (by omega : n < _)]
        simp [planAccess, hn, List.range_succ]
    _ = length := sliceAt_last_end hpage hlength hn.symm

end

/-- Settles O44: every slice of the plan is `sliceAt` of its number, and the slices are contiguous. -/
theorem slicesCoverTheRequest : Obligations.SlicesCoverTheRequest := by
  intro c offset length hv hrange hlength
  have hc := regular_of_valid hv
  refine ⟨by simp [planAccess, spannedPages], sum_planAccess hc.pageSize_pos hlength, fun k sl hsl => ?_,
    fun sl hsl => ?_, fun k sl sl' hsl hsl' => ?_⟩
  · obtain ⟨hk, rfl⟩ := getElem?_planAccess hsl
    obtain ⟨hnonempty, hfits⟩ := sliceAt_fits hc.pageSize_pos hlength hk
    exact ⟨rfl, hnonempty, hfits, sliceAt_columnOffset hc.pageSize_pos, unitPage_lt_numPages hc hrange hlength hk⟩
  · obtain ⟨-, rfl⟩ := getElem?_planAccess hsl
    exact sliceAt_zero_dst
  · obtain ⟨-, rfl⟩ := getElem?_planAccess hsl
    obtain ⟨hk, rfl⟩ := getElem?_planAccess hsl'
    exact sliceAt_succ_dst hc.pageSize_pos hlength hk

/-! #### Ranges on page and block boundaries -/

section
variable {offset length : Nat}

theorem alignedTo_iff {grain : Nat} : alignedTo grain offset length = true ↔ grain ∣ offset ∧ grain ∣ length := by
  simp only [alignedTo, Bool.and_eq_true, beq_iff_eq, Nat.dvd_iff_mod_eq_zero]

/-- A range on page boundaries spans exactly the pages it holds. -/
theorem spannedPages_of_aligned (haligned : alignedTo c.pageSize offset length = true) (hlength : 0 < length) :
    spannedPages c offset length = length / c.pageSize := by
  obtain ⟨hoffset, hdvd⟩ := alignedTo_iff.1 haligned
  have hend : (offset + length) / c.pageSize = (offset + length - 1) / c.pageSize + 1 := by
    have hsucc : offset + length - 1 + 1 = offset + length := by omega
    have hwhole : c.pageSize ∣ offset + length - 1 + 1 := by rw [hsucc]; exact Nat.dvd_add hoffset hdvd
    rw [← Nat.succ_div_of_dvd hwhole, hsucc]
  have hsum : (offset + length) / c.pageSize = offset / c.pageSize + length / c.pageSize :=
    Nat.add_div_of_dvd_right hoffset
  have hspan : offset / c.pageSize ≤ (offset + length - 1) / c.pageSize := Nat.div_le_div_right (by omega)
  unfold spannedPages
  omega

/-- A range on block boundaries lies on page boundaries. -/
theorem alignedTo_pageSize_of_blockSize (h : alignedTo c.blockSize offset length = true) :
    alignedTo c.pageSize offset length = true := by
  have hblock : c.pageSize ∣ c.blockSize := Dvd.intro c.pagesPerBlock rfl
  exact alignedTo_iff.2 ((alignedTo_iff.1 h).imp hblock.trans hblock.trans)

/-- A multiple of BLOCK_SIZE bytes is a multiple of PAGES_PER_BLOCK pages (R9). -/
theorem pages_mod_pagesPerBlock {n : Nat} (h : c.blockSize ∣ n) : n / c.pageSize % c.pagesPerBlock = 0 :=
  Nat.mod_eq_zero_of_dvd (Nat.dvd_div_of_mul_dvd h)

end

/-- Settles O45: a range on block boundaries is a number of whole blocks, each of them whole pages. -/
theorem erasePlanCoversWholeBlocks : Obligations.ErasePlanCoversWholeBlocks := by
  intro c offset length _ hchecks hlength
  have haligned : alignedTo c.blockSize offset length = true := (Bool.and_eq_true_iff.1 hchecks).2
  obtain ⟨hoffset, hblocks⟩ := alignedTo_iff.1 haligned
  have hspan := spannedPages_of_aligned (alignedTo_pageSize_of_blockSize haligned) hlength
  exact ⟨hspan, pages_mod_pagesPerBlock hoffset, hspan ▸ pages_mod_pagesPerBlock hblocks⟩

end
end Sys2Proof.Machine
end

/-! ### Requests that are answered by their checks

A request that fails a check, and one of length 0, is its acceptance, the answer and the response (R192, R193). -/

section
namespace Sys2Proof.Machine

/-! #### When a check fails -/

section
variable {c : Config} {offset length : Nat}

theorem inRange_eq_false_iff :
    inRange c offset length = false ↔ c.totalSize ≤ offset ∨ c.totalSize - offset < length := by
  simp only [inRange, Bool.and_eq_false_iff, decide_eq_false_iff_not, not_lt, not_le]

theorem alignedTo_eq_false_iff {grain : Nat} :
    alignedTo grain offset length = false ↔ offset % grain ≠ 0 ∨ length % grain ≠ 0 := by
  simp only [alignedTo, Bool.and_eq_false_iff, beq_eq_false_iff_ne]

theorem eraseChecks_eq_false_iff : eraseChecks c offset length = false ↔ c.totalSize ≤ offset ∨
    c.totalSize - offset < length ∨ offset % c.blockSize ≠ 0 ∨ length % c.blockSize ≠ 0 := by
  rw [eraseChecks, Bool.and_eq_false_iff, inRange_eq_false_iff, alignedTo_eq_false_iff, or_assoc]

theorem writeChecks_eq_false_iff : writeChecks c offset length = false ↔ c.totalSize ≤ offset ∨
    c.totalSize - offset < length ∨ offset % c.pageSize ≠ 0 ∨ length % c.pageSize ≠ 0 := by
  rw [writeChecks, Bool.and_eq_false_iff, inRange_eq_false_iff, alignedTo_eq_false_iff, or_assoc]

end

/-! #### The answer -/

/-- The request of the first state is answered in the second with a code and count 0; the engine is as ready as before,
and neither a frame nor a side effect is left behind. -/
structure State.AnsweredAtOnce (s : State) (code : ErrorCode) (t : State) : Prop where
  response : t.host.response = some ⟨code, 0, none⟩
  sameDevice : State.SameDevice s t
  trace : t.trace = []
  bufs : t.host.bufs = s.host.bufs
  count : t.eng.count = 0
  pc : t.eng.pc = s.eng.pc
  maybeBusy : t.eng.maybeBusy = s.eng.maybeBusy

/-- The instruction is an ERASE, or a READ or WRITE with a buffer of its length (R287 (b)), and `checks` is what its
checks come to. -/
inductive State.Presents (s : State) (offset length : Nat) (i : Instr) (checks : Bool) : Prop where
  | erase (buf : Option Nat) (instr : i = .erase offset length buf)
      (result : eraseChecks s.cfg offset length = checks)
  | read (h : Nat) (b : List Byte) (instr : i = .read offset length (some h)) (get : s.host.bufs[h]? = some b)
      (size : b.length = length) (result : readChecks s.cfg offset length = checks)
  | write (h : Nat) (b : List Byte) (instr : i = .write offset length (some h)) (get : s.host.bufs[h]? = some b)
      (size : b.length = length) (result : writeChecks s.cfg offset length = checks)

section
variable {s : State}

/-- A request of length 0 and one that fails a check end with their checks (R192, R193). -/
theorem State.dispatch_of_checks (hop : s.eng.op ≠ hostGeometry) (h : s.checksPass = false ∨ s.eng.length = 0) :
    s.dispatch = if s.checksPass = true then s.finish 0 else s.raise .invalidArgument := by
  rw [State.dispatch, if_neg hop, State.handle]
  cases hchecks : s.checksPass with
  | false => rfl
  | true => rw [if_neg (by decide), if_pos (h.resolve_left (by simp [hchecks]))]; rfl

/-- A record that names a buffer of its length keeps the host's duty (R287 (b)). -/
theorem State.dutyKept_of_buffer {r : Request} {k : Nat} {b : List Byte} (hbuf : r.buf = some k)
    (hget : s.host.bufs[k]? = some b) (hsize : b.length = r.length) : (s.accept r).DutyKept := fun _ => by
  simp [State.bufferKept_iff, State.buffer, hbuf, hget, hsize]

/-- The record of a request, whose host keeps its duty at acceptance. -/
theorem State.Presents.exists_record {offset length : Nat} {i : Instr} {checks : Bool}
    (h : s.Presents offset length i checks) : ∃ r, encode i = .request r ∧ r.length = length ∧ r.op ≠ hostGeometry ∧
      (s.accept r).DutyKept ∧ (s.accept r).checksPass = checks := by
  cases h with
  | erase buf instr result =>
    have hop : ¬ (hostErase = hostRead ∨ hostErase = hostWrite) := by decide
    exact ⟨⟨hostErase, offset, length, buf⟩, instr ▸ rfl, rfl, (by decide : hostErase ≠ hostGeometry),
      fun h => absurd h hop, result⟩
  | read k b instr get size result =>
    exact ⟨⟨hostRead, offset, length, some k⟩, instr ▸ rfl, rfl, (by decide : hostRead ≠ hostGeometry),
      State.dutyKept_of_buffer rfl get size, result⟩
  | write k b instr get size result =>
    exact ⟨⟨hostWrite, offset, length, some k⟩, instr ▸ rfl, rfl, (by decide : hostWrite ≠ hostGeometry),
      State.dutyKept_of_buffer rfl get size, result⟩

/-- A run that begins with the answer to an accepted request drives it at once. -/
theorem exec_of_answer {i : Instr} {r : Request} {u : State} (hi : encode i = .request r)
    (hp : s.eng.pc.ready = true) (hr : s.resetNow = false) (hduty : (s.accept r).DutyKept)
    (hu : (s.accept r).dispatch = u) (hpc : u.eng.pc = .respond) :
    exec i s = .next u.takeMove.respond := by
  subst hu
  have hmoves : (s.accept r).dispatch.host.moves = s.host.moves :=
    congrArg Ledger.moves ((s.accept r).dispatch_begins.ledger false)
  rw [exec_of_record hi hp, if_neg, State.runRequest_of_respond hpc (by rwa [State.resetNow, hmoves])]
  rintro ⟨hop, hkept⟩
  rw [hduty hop] at hkept
  cases hkept

/-- The response to an accepted request with a code and count 0, where nothing but the registers has changed. -/
theorem State.answeredAtOnce_of_accept {r : Request} {code : ErrorCode} {u : State} (hp : s.eng.pc.ready = true)
    (hop : r.op ≠ hostGeometry)
    (hu : u = { s.accept r with eng := { (s.accept r).eng with result := code, count := 0, pc := .respond } }) :
    s.AnsweredAtOnce code u.takeMove.respond := by
  subst hu
  refine ⟨by simp [State.responseRecord, hop], ⟨rfl, rfl, rfl, rfl⟩, rfl, rfl, rfl, ?_, rfl⟩
  exact State.AnsweredBy.pc_of_accept (s := s) (r := r) ⟨rfl, _, rfl, rfl⟩ hp

/-- On a READY engine, a request that fails a check or has length 0 is answered at once by its checks. -/
theorem State.Presents.answers {offset length : Nat} {i : Instr} {checks : Bool}
    (h : s.Presents offset length i checks) (hp : s.eng.pc.ready = true) (hr : s.resetNow = false)
    (hends : checks = false ∨ length = 0) :
    ∃ t, exec i s = .next t ∧ s.AnsweredAtOnce (if checks = true then .ok else .invalidArgument) t := by
  obtain ⟨r, hi, hlength, hop, hduty, hchecks⟩ := h.exists_record
  have hdispatch := State.dispatch_of_checks (s := s.accept r) hop (by rwa [hchecks, State.accept_eng, hlength])
  rw [hchecks] at hdispatch
  refine ⟨_, exec_of_answer hi hp hr hduty hdispatch ?_, State.answeredAtOnce_of_accept (r := r) hp hop ?_⟩
  · cases checks <;> rfl
  · cases checks with
    | true => rfl
    | false => simp [State.raise, ErrorCode.leavesBusy]

end

/-- Settles O47: a request off its range or boundaries fails its checks, and every other one passes them. -/
theorem failedChecksHaveNoSideEffects : Obligations.FailedChecksHaveNoSideEffects := by
  refine ⟨fun s offset length buf i hp hr h => ?_, fun c offset length hoffset hlength => ?_⟩
  · have hpresents : s.Presents offset length i false := by
      rcases h with ⟨hi, hfails⟩ | ⟨k, b, rfl, hget, hsize, ⟨hi, hfails⟩ | ⟨hi, hfails⟩⟩
      · exact .erase buf hi (eraseChecks_eq_false_iff.2 hfails)
      · exact .read k b hi hget hsize (inRange_eq_false_iff.2 hfails)
      · exact .write k b hi hget hsize (writeChecks_eq_false_iff.2 hfails)
    obtain ⟨t, hexec, hanswer⟩ := hpresents.answers hp hr (.inl rfl)
    exact ⟨t, hexec, hanswer.response, hanswer.sameDevice, hanswer.trace, hanswer.bufs, hanswer.count, hanswer.pc,
      hanswer.maybeBusy⟩
  · have hrange : inRange c offset length = true := by simp [inRange, hoffset, hlength]
    exact ⟨hrange, fun ho hl => by simp [eraseChecks, alignedTo, hrange, ho, hl],
      fun ho hl => by simp [writeChecks, alignedTo, hrange, ho, hl]⟩

/-- Settles O48: a request of length 0 is answered by its checks, before DEAD and MAYBE_BUSY are looked at. -/
theorem emptyRequestsSendNoFrame : Obligations.EmptyRequestsSendNoFrame := by
  intro s offset buf i checks hp hr h
  have hpresents : s.Presents offset 0 i checks := by
    rcases h with ⟨hi, hchecks⟩ | ⟨k, rfl, hget, ⟨hi, hchecks⟩ | ⟨hi, hchecks⟩⟩
    · exact .erase buf hi hchecks.symm
    · exact .read k [] hi hget rfl hchecks.symm
    · exact .write k [] hi hget rfl hchecks.symm
  obtain ⟨t, hexec, hanswer⟩ := hpresents.answers hp hr (.inr rfl)
  exact ⟨t, hexec, hanswer.response, hanswer.sameDevice, hanswer.trace, hanswer.pc, hanswer.maybeBusy⟩

end Sys2Proof.Machine
end

/-! ### The frames of an erase unit -/

section
namespace Sys2Proof.Machine

/-- The bytes of a PAGE frame by arithmetic: the page's high byte travels first (R104). -/
theorem pageFrame_eq_ofNat (opc : Byte) (page : Nat) :
    pageFrame opc page = [opc, 0x00, BitVec.ofNat 8 (page / 256), BitVec.ofNat 8 (page % 256)] := by
  have hhi : BitVec.ofNat 8 (page % 65536 / 256) = BitVec.ofNat 8 (page / 256) := by
    apply BitVec.eq_of_toNat_eq
    simp only [BitVec.toNat_ofNat]
    omega
  have hlo : page % 65536 % 256 = page % 256 := by omega
  rw [pageFrame, hiByte_eq_ofNat, loByte_eq_ofNat, field16, BitVec.toNat_ofNat, hhi, hlo]

/-- The page of the unit at hand is written to PAGE (R195, R199). -/
def State.atUnitPage (s : State) : State :=
  { s with eng := { s.eng with page := unitPage s.cfg s.eng.offset s.eng.unit } }

section
variable (s : State)

/-- A frame of a unit leaves the registers in one of two ways: `pc` moves on, or the request has ended. -/
theorem State.unitFrame_eng_cases (tx : List Byte) (next : Pc) :
    (s.unitFrame tx next).eng = { s.eng with pc := next } ∨
      (s.unitFrame tx next).eng = (s.raise .transportError).eng := by
  obtain ⟨-, hanswer, herror⟩ := s.unitFrame_spec tx next
  exact (em _).symm.imp hanswer herror

/-- A frame of a unit that meets a transport error ends the request (R303). -/
theorem State.unitFrame_ends (tx : List Byte) (next : Pc) (h : (s.unitFrame tx next).reply = .transportError) :
    (s.unitFrame tx next).eng.pc = .respond ∧ (s.unitFrame tx next).eng.result = .transportError := by
  obtain ⟨-, -, herror⟩ := s.unitFrame_spec tx next
  rw [herror h]
  exact ⟨rfl, rfl⟩

variable {s}

/-- An erase unit that is not cancelled begins with WREN (R222, R351). -/
theorem State.seq_of_eUnit (hp : s.eng.pc = .eUnit) (hc : s.eng.cancel = false) :
    s.seq = .next (s.atUnitPage.unitFrame [opcWren] .eWel) := by
  simp [State.seq, hp, State.seqEUnit, hc, State.atUnitPage]

/-- Behind WREN it sends BERS with PAGE (R222). -/
theorem State.seq_of_eWel (hp : s.eng.pc = .eWel) :
    s.seq = .next (s.unitFrame (pageFrame opcBers s.eng.page) .eCmd) := by
  simp [State.seq, hp, State.seqEWel]

end

/-- Settles O38: both moves are one frame of the unit. -/
theorem eraseUnitSendsWrenThenBers : Obligations.EraseUnitSendsWrenThenBers := by
  intro s
  refine ⟨fun hp hc => ?_, fun hp => ?_⟩
  · obtain ⟨htrace, hanswer, -⟩ := s.atUnitPage.unitFrame_spec [opcWren] .eWel
    refine ⟨_, State.seq_of_eUnit hp hc, htrace, ?_, fun hr => by rw [hanswer hr], State.unitFrame_ends _ _ _⟩
    rcases s.atUnitPage.unitFrame_eng_cases [opcWren] .eWel with heng | heng <;> rw [heng] <;> rfl
  · obtain ⟨htrace, hanswer, -⟩ := s.unitFrame_spec (pageFrame opcBers s.eng.page) .eCmd
    refine ⟨_, State.seq_of_eWel hp, ?_, hanswer, State.unitFrame_ends _ _ _⟩
    rw [htrace, pageFrame_eq_ofNat]
    rfl

end Sys2Proof.Machine
end

/-! ### The units of a request that stand

A request that runs units is followed from its first unit to its end. `Job` is what it is to do; `Job.Stands` says which
bytes of the device are done and which are untouched when a unit is in progress; `Job.Underway` and `Job.Outcome` say
what a unit's command finds and leaves (R224, R244, R264). -/

section
namespace Sys2Proof.Machine

/-- What a request with units is to do. -/
structure Job where
  cfg : Config
  op : Byte
  offset : Nat
  length : Nat
  /-- the device that the request found -/
  base : Device
  /-- the byte that is wanted for each address of the range: in ARRAY, and of a READ in the buffer -/
  want : Nat → Byte

/-- What the request may rely on. -/
structure Job.Sound (J : Job) : Prop where
  regular : Regular J.cfg
  nonempty : 0 < J.length
  erases : J.op = hostErase → ∀ a, J.want a = erasedByte
  reads : J.op = hostRead → ∀ a, J.want a = J.base.array.read a
  /-- a WRITE finds its range erased (R82) -/
  blank : J.op = hostWrite → ∀ a, J.offset ≤ a → a < J.offset + J.length → J.base.array.read a = erasedByte

namespace Job

variable (J : Job) (k : Nat)

/-- The number of units (R195, R199, R203). -/
def units : Nat :=
  if J.op = hostWrite then programUnits J.cfg J.length else spannedPages J.cfg J.offset J.length

/-- The page of unit `k`. -/
def page : Nat := unitPage J.cfg J.offset k

/-- The device command of unit `k`. -/
def command : Pending := commandOf J.op (J.page k)

/-- The addresses of ARRAY that unit `k` writes. -/
def Writes (a : Nat) : Prop := (J.command k).Writes J.cfg a

/-- The mask under which a status byte shows that a unit has failed (R170). -/
def failMask : Byte := if J.op = hostErase then efailMask else if J.op = hostWrite then pfailMask else noMask

/-- CACHE holds the bytes that are wanted for the page of unit `k`. -/
def CacheHolds (d : Device) : Prop :=
  ∀ col < J.cfg.pageSize, d.cache.read col = J.want (pageBase J.cfg (J.page k) + col)

/-- ARRAY holds byte `f a` at every address `a` of the page of unit `k`. -/
def PageReads (d : Device) (f : Nat → Byte) : Prop :=
  ∀ col < J.cfg.pageSize, d.array.read (pageBase J.cfg (J.page k) + col) = f (pageBase J.cfg (J.page k) + col)

/-- The command of unit `k` is pending, and finds what it needs for its outcome. -/
structure Underway (d : Device) : Prop where
  pending : d.pending = some (J.command k)
  program : J.op = hostWrite → J.CacheHolds k d ∧ J.PageReads k d fun _ => erasedByte
  load : J.op = hostRead → J.PageReads k d J.want

/-- The command of unit `k` has completed with success. -/
structure Outcome (d : Device) : Prop where
  idle : d.pending = none
  stored : ∀ a, J.Writes k a → d.array.read a = J.want a
  loaded : J.op = hostRead → J.CacheHolds k d

/-- The device while unit `k` is in progress, of units `0` to `k`, with the first `started` of them begun. -/
structure Stands (started : Nat) (d : Device) : Prop where
  own : ∀ p, d.pending = some p → p = J.command k
  stored : ∀ j < k, ∀ a, J.Writes j a → ¬ J.Writes k a → d.array.read a = J.want a
  untouched : ∀ a, (∀ j < started, ¬ J.Writes j a) → d.array.read a = J.base.array.read a

variable {J k}

/-! #### The operations -/

theorem command_of_erase (h : J.op = hostErase) : J.command k = .erase (J.page k) := by
  rw [command, commandOf, if_pos h]

theorem command_of_write (h : J.op = hostWrite) : J.command k = .program (J.page k) := by
  rw [command, commandOf, h]; rfl

theorem command_of_other (he : J.op ≠ hostErase) (hw : J.op ≠ hostWrite) : J.command k = .load (J.page k) := by
  rw [command, commandOf, if_neg he, if_neg hw]

theorem command_of_read (h : J.op = hostRead) : J.command k = .load (J.page k) := by
  obtain ⟨he, hw⟩ := ne_erase_write_of_read h
  exact command_of_other he hw

/-- A READ writes no byte of ARRAY. -/
theorem not_writes_of_read (h : J.op = hostRead) (a : Nat) : ¬ J.Writes k a := by
  rw [Writes, command_of_read h]
  exact id

/-- An erase unit writes the block of its page (R65). -/
theorem writes_iff_of_erase (h : J.op = hostErase) (hc : Regular J.cfg) {a : Nat} :
    J.Writes k a ↔ a / J.cfg.blockSize = J.page k / J.cfg.pagesPerBlock := by
  have hblock := hc.blockSize_pos
  rw [Writes, command_of_erase h, Pending.Writes, blockBase, blockOf, Nat.div_eq_iff hblock]
  omega

/-- A program unit writes its page. -/
theorem writes_iff_of_write (h : J.op = hostWrite) (hc : Regular J.cfg) {a : Nat} :
    J.Writes k a ↔ a / J.cfg.pageSize = J.page k := by
  have hpage := hc.pageSize_pos
  rw [Writes, command_of_write h, Pending.Writes, pageBase, Nat.div_eq_iff hpage]
  omega

/-- Bytes outside the unit in progress do not change. -/
theorem Stands.of_outside {d d' : Device} {started : Nat} (h : J.Stands k started d) (hstarted : started ≤ k + 1)
    (hown : ∀ p, d'.pending = some p → p = J.command k)
    (houtside : ∀ a, ¬ J.Writes k a → d'.array.read a = d.array.read a) : J.Stands k (k + 1) d' where
  own := hown
  stored j hj a ha hk := (houtside a hk).trans (h.stored j hj a ha hk)
  untouched a ha := (houtside a (ha k (Nat.lt_succ_self k))).trans
    (h.untouched a fun j hj => ha j (lt_of_lt_of_le hj hstarted))

/-- A unit that has its outcome is counted. -/
theorem Stands.count {d : Device} (h : J.Stands k (k + 1) d) (hout : J.Outcome k d) :
    J.Stands (k + 1) (k + 1) d where
  own p hp := by rw [hout.idle] at hp; cases hp
  stored j hj a ha _ := by
    by_cases hk : J.Writes k a
    · exact hout.stored a hk
    · rcases Nat.lt_succ_iff_lt_or_eq.1 hj with hlt | rfl
      · exact h.stored j hlt a ha hk
      · exact absurd ha hk
  untouched := h.untouched

theorem Stands.mono {d : Device} {m n : Nat} (h : J.Stands k m d) (hmn : m ≤ n) : J.Stands k n d :=
  ⟨h.own, h.stored, fun a ha => h.untouched a fun j hj => ha j (hj.trans_le hmn)⟩

/-- What does not touch ARRAY and PENDING leaves all units as they are. -/
theorem Stands.congr {d d' : Device} {m : Nat} (h : J.Stands k m d) (harray : d'.array = d.array)
    (hpending : d'.pending = d.pending) : J.Stands k m d' :=
  ⟨hpending ▸ h.own, harray ▸ h.stored, harray ▸ h.untouched⟩

end Job

/-! #### A completion and its status byte -/

section
variable {s : State} {J : Job} {k : Nat}

/-- A status byte that shows no bit under the mask of EFAIL shows a device whose erase did not fail (R35). -/
theorem efail_of_status {d : Device} {any : Byte} (h : statusByte d any &&& efailMask = 0) : d.efail = false := by
  obtain ⟨-, hbit, -⟩ := statusByte_bits d any
  rw [← hbit]
  simpa [efailMask] using congrArg (·.getLsbD 2) h

theorem pfail_of_status {d : Device} {any : Byte} (h : statusByte d any &&& pfailMask = 0) : d.pfail = false := by
  obtain ⟨-, -, hbit⟩ := statusByte_bits d any
  rw [← hbit]
  simpa [pfailMask] using congrArg (·.getLsbD 3) h

/-- A completed erase leaves ARRAY as its draw says, and shows that draw in EFAIL (R140). -/
theorem State.complete_erase {page : Nat} (hp : s.dev.pending = some (.erase page)) :
    s.complete.dev.efail = !s.draws.succeedsNow ∧ s.complete.dev.array =
      (State.eraseArray { s with draws := s.draws.pastSucceeds } page s.draws.succeedsNow).dev.array := by
  simp [State.complete, hp, State.completeErase]

/-- A completed program leaves ARRAY as its draw says, and shows that draw in PFAIL (R140). -/
theorem State.complete_program {page : Nat} (hp : s.dev.pending = some (.program page)) :
    s.complete.dev.pfail = !s.draws.succeedsNow ∧ s.complete.dev.array =
      (State.programArray { s with draws := s.draws.pastSucceeds } page s.draws.succeedsNow).dev.array := by
  simp [State.complete, hp, State.completeProgram]

/-- A unit's command that completes has its outcome, unless the status byte shows its failure (R81, R82, R140). -/
theorem Job.Underway.complete (h : J.Underway k s.dev) (hJ : J.Sound) (hcfg : s.cfg = J.cfg)
    (hbp : J.op ≠ hostRead → s.dev.bp = 0x00) {any : Byte}
    (hmask : statusByte s.complete.dev any &&& J.failMask = 0) : J.Outcome k s.complete.dev := by
  have hpending := h.pending
  have hidle := (State.complete_completed s hpending).idle
  by_cases he : J.op = hostErase
  · have hne : J.op ≠ hostRead := by rw [he]; decide
    rw [command_of_erase he] at hpending
    obtain ⟨hefail, harray⟩ := State.complete_erase hpending
    rw [Job.failMask, if_pos he] at hmask
    have hok : s.draws.succeedsNow = true := by simpa [efail_of_status hmask] using hefail
    refine ⟨hidle, fun a ha => ?_, fun hr => absurd hr hne⟩
    rw [Job.Writes, command_of_erase he, ← hcfg] at ha
    rw [harray, hok, hJ.erases he]
    exact State.eraseArray_inside (s := { s with draws := s.draws.pastSucceeds }) (hbp hne) ha
  · by_cases hw : J.op = hostWrite
    · have hne : J.op ≠ hostRead := by rw [hw]; decide
      rw [command_of_write hw] at hpending
      obtain ⟨hpfail, harray⟩ := State.complete_program hpending
      obtain ⟨hcache, hblank⟩ := h.program hw
      rw [Job.failMask, if_neg he, if_pos hw] at hmask
      have hok : s.draws.succeedsNow = true := by simpa [pfail_of_status hmask] using hpfail
      refine ⟨hidle, fun a ha => ?_, fun hr => absurd hr hne⟩
      rw [Job.Writes, command_of_write hw] at ha
      obtain ⟨hlo, hhi⟩ := ha
      obtain ⟨col, rfl⟩ := Nat.exists_eq_add_of_le hlo
      have hcol : col < J.cfg.pageSize := by omega
      rw [harray, hok, ← hcache col hcol, ← hcfg]
      refine State.programArray_inside (s := { s with draws := s.draws.pastSucceeds }) (hbp hne)
        ((Memory.isErased_iff _ _ _).2 fun i hi => ?_) (hcfg ▸ hcol)
      exact hcfg ▸ hblank i (hcfg ▸ hi)
    · rw [command_of_other he hw] at hpending
      refine ⟨hidle, fun a ha => ?_, fun hr col hcol => ?_⟩
      · rw [Job.Writes, command_of_other he hw] at ha
        exact ha.elim
      · rw [State.read_cache_complete_load hpending (hcfg ▸ hcol), hcfg]
        exact h.load hr col hcol

end

section
variable {s t u w : State} {J : Job} {k : Nat}

/-! #### A status read of a unit's await -/

/-- An await of unit `k` (R172): while the last status byte shows BUSY the command is underway; if the byte shows
neither BUSY nor a bit under MASK, the unit has its outcome. -/
structure Job.Awaits (J : Job) (k : Nat) (s : State) : Prop where
  mask : s.eng.mask = J.failMask
  busy : busyBit s.eng.status = true → J.Underway k s.dev
  done : busyBit s.eng.status = false → s.eng.status &&& s.eng.mask = 0 → J.Outcome k s.dev

/-- A status read of a device without fault lets the pending command complete and shows the device behind it (R131). -/
theorem devRdsr_of_noFault (hfault : s.dev.dfault = false) :
    devRdsr statusReg s = ([statusByte s.maybeComplete.dev s.maybeComplete.draws.byteNow],
      { s.maybeComplete with draws := s.maybeComplete.draws.pastByte }) := by
  simp [devRdsr, State.answer, hfault]

/-- At a status read the command of a unit stays underway, or it completes (R80 (a)). -/
theorem Job.Underway.maybeComplete (h : J.Underway k s.dev) (hJ : J.Sound) (hcfg : s.cfg = J.cfg)
    (hbp : J.op ≠ hostRead → s.dev.bp = 0x00) {any : Byte} :
    let b := statusByte s.maybeComplete.dev any
    (busyBit b = true ∧ J.Underway k s.maybeComplete.dev) ∨
      (busyBit b = false ∧ (b &&& J.failMask = 0 → J.Outcome k s.maybeComplete.dev)) := by
  have hbusy : s.dev.busy = true := Device.busy_iff.2 ⟨_, h.pending⟩
  have hshown (d : Device) : busyBit (statusByte d any) = d.busy := (statusByte_bits d any).1
  dsimp only
  rw [hshown, State.maybeComplete, if_pos hbusy]
  dsimp only
  split
  · refine .inr ⟨?_, Job.Underway.complete (s := { s with draws := s.draws.pastCompletes }) h hJ hcfg hbp⟩
    have hcompleted := State.complete_completed { s with draws := s.draws.pastCompletes } h.pending
    simp [Device.busy, hcompleted.idle]
  · exact .inl ⟨hbusy, h⟩

/-- The status read of a unit whose command is underway: an error, or a byte that tells how the unit stands. -/
theorem State.send_status_underway (h : J.Underway k s.dev) (hJ : J.Sound) (hcfg : s.cfg = J.cfg)
    (hbp : J.op ≠ hostRead → s.dev.bp = 0x00) (hfault : s.dev.dfault = false) :
    let t := s.send [opcRdsr, statusReg] 1
    t.reply = .transportError ∨ ∃ b, t.reply = .data [b] ∧
      ((busyBit b = true ∧ J.Underway k t.dev) ∨ (busyBit b = false ∧ (b &&& J.failMask = 0 → J.Outcome k t.dev))) := by
  let w : State := { s with trace := s.trace ++ [.frame [opcRdsr, statusReg] 1], draws := s.draws.pastTransport }
  have hread := devRdsr_of_noFault (s := w) hfault
  have hcases := Job.Underway.maybeComplete (s := w) h hJ hcfg hbp (any := w.maybeComplete.draws.byteNow)
  simp only [State.send, deviceReceives_rdsr]
  rcases State.transact_cases { s with trace := s.trace ++ [.frame [opcRdsr, statusReg] 1] } (devRdsr statusReg)
    with ⟨-, ht⟩ | ⟨-, ht⟩ | ⟨-, ht⟩ <;> rw [ht]
  · rw [hread]
    exact .inr ⟨_, rfl, hcases⟩
  · exact .inl rfl
  · exact .inl rfl

/-! #### The request's buffer -/

/-- The first `m` bytes of the request's buffer are those wanted for its range. -/
def State.BufferHolds (s : State) (J : Job) (m : Nat) : Prop :=
  ∃ out, s.buffer = some out ∧ out.length = J.length ∧
    ∀ i < m, i < J.length → out[i]? = some (J.want (J.offset + i))

/-- How much of the buffer holds the wanted bytes while unit `k` is in progress: of a READ the slices before `k`, of a
WRITE all of it. -/
def Job.reach (J : Job) (k : Nat) : Nat := if J.op = hostRead then J.page k * J.cfg.pageSize - J.offset else J.length

/-- The part of the state that a unit in progress leaves alone until it ends. -/
structure UnitView where
  cfg : Config
  bufs : List (List Byte)
  op : Byte
  offset : Nat
  length : Nat
  buf : Option Nat
  unit : Nat
  result : ErrorCode

/-- What it is in a state. -/
def State.view (s : State) : UnitView where
  cfg := s.cfg
  bufs := s.host.bufs
  op := s.eng.op
  offset := s.eng.offset
  length := s.eng.length
  buf := s.eng.buf
  unit := s.eng.unit
  result := s.eng.result

@[simp] theorem State.view_send (s : State) (tx : List Byte) (rx : Nat) : (s.send tx rx).view = s.view := by
  simp [State.view]

/-- The request in the registers is the job. -/
structure State.Serves (s : State) (J : Job) : Prop where
  cfg : s.cfg = J.cfg
  op : s.eng.op = J.op
  offset : s.eng.offset = J.offset
  length : s.eng.length = J.length
  nunits : s.eng.nunits = J.units
  unprotected : J.op ≠ hostRead → s.dev.bp = 0x00

theorem State.BufferHolds.of_view {m : Nat} (h : s.BufferHolds J m) (hview : t.view = s.view) : t.BufferHolds J m := by
  have hbufs : t.host.bufs = s.host.bufs := congrArg UnitView.bufs hview
  have hbuf : t.eng.buf = s.eng.buf := congrArg UnitView.buf hview
  unfold State.BufferHolds State.buffer at h ⊢
  rwa [hbufs, hbuf]

theorem State.buffer_setBuffer {b b' : List Byte} (h : s.buffer = some b) : (s.setBuffer b').buffer = some b' := by
  cases hbuf : s.eng.buf with
  | none => simp [State.buffer, hbuf] at h
  | some j =>
    have hget : s.host.bufs[j]? = some b := by simpa [State.buffer, hbuf] using h
    obtain ⟨hlt, -⟩ := List.getElem?_eq_some_iff.1 hget
    simp [State.buffer, State.setBuffer, hbuf, hlt]

/-- Spoiling a buffer from some byte on keeps its length and the bytes before. -/
theorem State.BufferHolds.spoilBuffer {m i : Nat} (h : s.BufferHolds J m) (him : m ≤ i) :
    (s.spoilBuffer i).BufferHolds J m := by
  obtain ⟨out, hout, hlen, hholds⟩ := h
  refine ⟨out.take i ++ s.draws.anyBytes (out.length - i), ?_, ?_, fun j hj hjlen => ?_⟩
  · simp only [State.spoilBuffer, hout]
    exact State.buffer_setBuffer hout
  · simp [Draws.anyBytes]; omega
  · rw [List.getElem?_append_left (by simp; omega), List.getElem?_take_of_lt (by omega)]
    exact hholds j hj hjlen

/-- The slice in progress begins behind the bytes that are done. -/
theorem Job.reach_eq_dst (hop : J.op = hostRead) : J.reach k = (sliceAt J.cfg J.offset J.length k).dst := by
  simp only [reach, if_pos hop, sliceAt, page, unitPage]
  omega

/-- A unit that ends unsettled leaves the buffer's bytes before it. -/
theorem State.BufferHolds.spoilUnit (h : s.BufferHolds J (J.reach s.eng.unit))
    (hview : s.cfg = J.cfg ∧ s.eng.op = J.op ∧ s.eng.offset = J.offset ∧ s.eng.length = J.length) :
    s.spoilUnit.BufferHolds J (J.reach s.eng.unit) := by
  obtain ⟨hcfg, hop, hoffset, hlength⟩ := hview
  unfold State.spoilUnit
  split_ifs with he hw hr
  · exact h.of_view rfl
  · exact h.of_view rfl
  · rw [hcfg, hoffset, hlength, ← Job.reach_eq_dst (hop.symm.trans hr)]
    exact h.spoilBuffer le_rfl
  · exact h

end

/-- The registers of the slice in progress are loaded (R205). -/
def State.SliceLoaded (s : State) (J : Job) : Prop :=
  s.eng.col = (sliceAt J.cfg J.offset J.length s.eng.unit).columnOffset ∧
    s.eng.slen = (sliceAt J.cfg J.offset J.length s.eng.unit).lengthInPage ∧
    s.eng.dst = (sliceAt J.cfg J.offset J.length s.eng.unit).dst

/-- The states in which the unit that UNIT names has not begun to write: those behind a counted unit, and those of a
program unit whose page is still to be written. -/
def freshStates : List Pc := [.eReady, .pReady, .pUnit, .pWel, .pLoaded]

/-- How many units have begun to write. -/
def State.started (s : State) : Nat := if s.eng.pc ∈ freshStates then s.eng.unit else s.eng.unit + 1

/-- The response, and the states behind it. -/
def endStates : List Pc := [.respond, .idle, .dead]

/-- What each state of a unit has prepared for its outcome. -/
def State.InPhase (s : State) (J : Job) : Prop :=
  match s.eng.pc with
  | .pWel => s.eng.dst = s.eng.unit * J.cfg.pageSize
  | .pLoaded => J.CacheHolds s.eng.unit s.dev
  | .eCmd => J.Underway s.eng.unit s.dev
  | .pCmd => J.Underway s.eng.unit s.dev
  | .rPageLoaded => J.Underway s.eng.unit s.dev ∧ s.SliceLoaded J
  | .eBusy => J.Awaits s.eng.unit s
  | .pBusy => J.Awaits s.eng.unit s
  | .rBusy => J.Awaits s.eng.unit s ∧ s.SliceLoaded J
  | .rReady => J.CacheHolds s.eng.unit s.dev ∧ s.SliceLoaded J
  | .wrdi => s.eng.unit < s.eng.nunits
  | .recover => False
  | .bringup => False
  | _ => True

/-- The states that have nothing of their own prepared. -/
def plainStates : List Pc :=
  [.idle, .dead, .eUnit, .eWel, .eReady, .eFailed, .pUnit, .pReady, .pFailed, .rUnit, .respond]

/-- The invariant of a run that begins with its first unit: UNIT counts the units that stand. -/
structure State.Tracks (s : State) (J : Job) : Prop where
  serves : s.Serves J
  bounded : s.eng.unit ≤ s.eng.nunits
  stands : J.Stands s.eng.unit s.started s.dev
  buffer : J.op = hostRead ∨ J.op = hostWrite → s.BufferHolds J (J.reach s.eng.unit)
  going : s.eng.pc ∉ endStates → s.eng.result = .ok
  ended : s.eng.pc ∈ endStates → (s.eng.result = .ok ↔ s.eng.unit = s.eng.nunits)
  phase : s.InPhase J

/-- The run of the job, in the protocol and confined to its range. -/
structure State.Follows (s : State) (J : Job) : Prop where
  sound : J.Sound
  protocol : s.Protocol
  confined : s.Confined J.base
  tracks : s.Tracks J

/-- A move that stays in its unit: the request goes on, or it fails there. -/
inductive State.Continues (J : Job) (s t : State) : Prop where
  | goesOn (view : t.view = s.view) (pc : t.eng.pc ∉ endStates) (phase : t.InPhase J)
      (fresh : t.eng.pc ∈ freshStates →
        s.eng.pc ∈ freshStates ∧ t.dev.array = s.dev.array ∧ t.dev.pending = s.dev.pending)
  | fails (unit : t.eng.unit = s.eng.unit) (pc : t.eng.pc = .respond) (result : t.eng.result ≠ .ok)
      (buffer : s.BufferHolds J (J.reach s.eng.unit) → t.BufferHolds J (J.reach s.eng.unit))

section
variable {s t u w : State} {J : Job}

/-! #### What stands behind a move -/

theorem State.InPhase.of_plain (h : s.eng.pc ∈ plainStates) : s.InPhase J := by
  unfold State.InPhase
  cases hp : s.eng.pc <;> simp_all [plainStates]

theorem State.Serves.of_ledger (h : s.Serves J) (hledger : t.ledger true = s.ledger true) : t.Serves J := by
  obtain ⟨hcfg, hop, hoffset, hlength, hnunits, hbp⟩ := h
  have htbp : t.dev.bp = s.dev.bp := by simpa [State.ledger] using congrArg Ledger.bp hledger
  exact ⟨(congrArg Ledger.cfg hledger).trans hcfg, (congrArg Ledger.op hledger).trans hop,
    (congrArg Ledger.offset hledger).trans hoffset, (congrArg Ledger.length hledger).trans hlength,
    (congrArg Ledger.nunits hledger).trans hnunits, fun hr => htbp.trans (hbp hr)⟩

/-- Where the plan stands, the sequencer is in the operation that OP names. -/
theorem State.PlanStands.inItsOperation (h : s.PlanStands) : s.InItsOperation := by
  cases hop : s.eng.pc.operation with
  | none => exact .inl hop
  | some op =>
    obtain ⟨heq, hplanned, -⟩ := h.running op hop
    exact .inr (by rw [hop, hplanned.operation_unitBoundary, heq])

theorem State.Follows.serves_seq (h : s.Follows J) (hin : s.eng.pc.inFlight = true) (hseq : s.seq = .next t) :
    t.Serves J := by
  have hpc : s.eng.pc ≠ .bringup := fun hp => by rw [hp] at hin; cases hin
  exact h.tracks.serves.of_ledger (State.ledger_seq (fun _ => ⟨h.protocol.planStands.inItsOperation, hpc⟩) hseq)

theorem State.Serves.page_eq (h : s.Serves J) (k : Nat) : unitPage s.cfg s.eng.offset k = J.page k := by
  rw [h.cfg, h.offset, Job.page]

/-- The page that the unit in progress works on is its own. -/
theorem State.Follows.currentPage (h : s.Follows J) (hp : s.eng.pc ∈ unitStates) :
    s.currentPage = J.page s.eng.unit := by
  rw [h.confined.currentPage hp, h.tracks.serves.page_eq]

/-- A move of the unit in progress leaves all the bytes outside it. -/
theorem State.Effect.stands {d : Device} (h : s.Effect d) (hs : s.Follows J) :
    J.Stands s.eng.unit (s.eng.unit + 1) d := by
  have hcommand (hp : s.eng.pc ∈ unitStates) : commandOf s.eng.op s.currentPage = J.command s.eng.unit := by
    rw [hs.currentPage hp, hs.tracks.serves.op, Job.command]
  have hcfg := hs.tracks.serves.cfg
  have hstands : J.Stands s.eng.unit (s.eng.unit + 1) s.dev := by
    refine hs.tracks.stands.mono ?_
    unfold State.started
    split <;> omega
  induction h with
  | still => exact hstands
  | latches => exact hstands.congr rfl rfl
  | loads => exact hstands.congr rfl rfl
  | starts place =>
    exact hstands.of_outside le_rfl (fun p hp => (Option.some.inj hp).symm.trans (hcommand place)) fun _ _ => rfl
  | completes pending completed =>
    refine hstands.of_outside le_rfl (fun p hp => ?_) fun a ha => ?_
    · rw [completed.idle] at hp; cases hp
    · rw [hstands.own _ pending] at completed
      exact completed.outside a (hcfg ▸ ha)
  | spoils array before place writing outside ih =>
    refine ih.of_outside le_rfl ih.own fun a ha => outside a ?_
    rw [hcommand place, hcfg]
    exact ha

/-- Behind a move that stays in its unit the invariant stands. -/
theorem State.Continues.tracks (h : s.Continues J t) (hs : s.Follows J) (hin : s.eng.pc.inFlight = true)
    (hunit : s.eng.unit < s.eng.nunits) (hresult : s.eng.result = .ok) (hseq : s.seq = .next t) : t.Tracks J := by
  have hserves := hs.serves_seq hin hseq
  have hnunits : t.eng.nunits = s.eng.nunits := hserves.nunits.trans hs.tracks.serves.nunits.symm
  have hstands := (hs.protocol.staysInStep (Pc.not_ready_of_inFlight hin) hseq).effect.stands hs
  cases h with
  | goesOn view pc phase fresh =>
    have htunit : t.eng.unit = s.eng.unit := congrArg UnitView.unit view
    refine ⟨hserves, by omega, ?_, fun hop => ?_, fun _ => ?_, fun he => absurd he pc, phase⟩
    · rw [htunit]
      unfold State.started
      split
      · obtain ⟨hfresh, harray, hpending⟩ := fresh ‹_›
        have hst := hs.tracks.stands
        rw [State.started, if_pos hfresh] at hst
        rw [htunit]
        exact hst.congr harray hpending
      · rwa [htunit]
    · rw [htunit]
      exact (hs.tracks.buffer hop).of_view view
    · exact (congrArg UnitView.result view).trans hresult
  | fails unit pc result buffer =>
    have hstarted : t.started = s.eng.unit + 1 := by
      rw [State.started, if_neg (by rw [pc]; decide), unit]
    refine ⟨hserves, by omega, by rwa [unit, hstarted], fun hop => by rw [unit]; exact buffer (hs.tracks.buffer hop),
      fun hp => absurd (by simp [pc, endStates]) hp, fun _ => ⟨fun hok => absurd hok result, fun hall => by omega⟩,
      .of_plain (by simp [pc, plainStates])⟩

/-- The test of the unit loop, with all units before UNIT done. -/
theorem State.loopTest_tracks (hserves : u.Serves J) (hbounded : u.eng.unit ≤ u.eng.nunits)
    (hresult : u.eng.result = .ok) (hstands : J.Stands u.eng.unit u.eng.unit u.dev)
    (hbuffer : J.op = hostRead ∨ J.op = hostWrite → u.BufferHolds J (J.reach u.eng.unit)) : u.loopTest.Tracks J := by
  obtain ⟨hloop, hunit, hres⟩ := u.loopTest_eng
  have hledger : u.loopTest.ledger true = u.ledger true := u.ledger_loopTest
  have hplain : ∀ p ∈ [Pc.eUnit, .pUnit, .rUnit, .respond], p ∈ plainStates := by decide
  have hnunits : u.loopTest.eng.nunits = u.eng.nunits := congrArg Ledger.nunits hledger
  have hview : u.loopTest.view = u.view := by
    unfold State.loopTest
    split <;> rfl
  refine ⟨hserves.of_ledger hledger, by omega, ?_, fun hop => by rw [hunit]; exact (hbuffer hop).of_view hview,
    fun _ => hres.trans hresult, fun hend => ⟨fun _ => ?_, fun _ => hres.trans hresult⟩,
    .of_plain (hplain _ hloop.pc_mem)⟩
  · rw [hunit, u.loopTest_dev]
    refine hstands.mono ?_
    unfold State.started
    split <;> omega
  · unfold State.loopTest at hend ⊢
    split at hend
    · exfalso
      revert hend
      simp only [State.goto_eng, unitBoundaryOf]
      split_ifs <;> decide
    · rw [if_neg ‹_›]
      exact le_antisymm hbounded (not_lt.1 ‹_›)

end

section
variable {s t u w : State} {J : Job}

/-! #### The parts of a unit -/

/-- A unit that ends unsettled fails in its unit. -/
theorem State.Continues.abortUnit (hserves : s.Serves J) (hview : w.view = s.view) {e : ErrorCode} (he : e ≠ .ok) :
    s.Continues J (w.abortUnit e) := by
  have hunit : w.eng.unit = s.eng.unit := congrArg UnitView.unit hview
  refine .fails (by simpa using hunit) (by simp) (by simpa using he) fun hholds => ?_
  rw [← hunit] at hholds ⊢
  exact (hholds.of_view hview).spoilUnit ⟨(congrArg UnitView.cfg hview).trans hserves.cfg,
    (congrArg UnitView.op hview).trans hserves.op, (congrArg UnitView.offset hview).trans hserves.offset,
    (congrArg UnitView.length hview).trans hserves.length⟩

/-- A request that ends in an error between the frames of a unit. -/
theorem State.Continues.raise (hview : w.view = s.view) {e : ErrorCode} (he : e ≠ .ok) : s.Continues J (w.raise e) :=
  .fails (congrArg UnitView.unit hview :) rfl (by simpa using he) fun hholds =>
    (hholds.of_view hview : w.BufferHolds J _)

/-- A request that is cancelled at the boundary of a unit. -/
theorem State.Continues.raiseCancelled (hserves : s.Serves J) : s.Continues J s.raiseCancelled := by
  unfold State.raiseCancelled
  split
  · exact .abortUnit hserves rfl (by decide)
  · exact .raise rfl (by decide)

/-- A frame of a unit: with an answer, what the device made of it is the next state's phase. -/
theorem State.Continues.unitFrame {tx : List Byte} {next : Pc} {D : Device → Prop} (hserves : s.Serves J)
    (hview : u.view = s.view) (hacts : u.Acts tx 0 D) (hnext : next ∉ endStates)
    (hphase : ∀ w : State, w.eng = { u.eng with pc := next } → D w.dev → w.InPhase J)
    (hfresh : next ∈ freshStates → s.eng.pc ∈ freshStates ∧
      ∀ d, D d → d.array = s.dev.array ∧ d.pending = s.dev.pending) : s.Continues J (u.unitFrame tx next) := by
  have hcases := u.send_dev hacts
  have hsent : (u.send tx 0).view = s.view := by rw [State.view_send, hview]
  simp only [State.unitFrame]
  cases hr : (u.send tx 0).reply with
  | transportError => exact .abortUnit hserves hsent (by decide)
  | data d =>
    have hd : D (u.send tx 0).dev := by simpa [hr] using hcases
    exact .goesOn hsent hnext (hphase _ (by simp) hd) fun hf => ⟨(hfresh hf).1, (hfresh hf).2 _ hd⟩

/-- In the polling state of a unit, with its slice loaded if it is a READ's, an await is the phase. -/
theorem State.InPhase.of_awaits {polling : Pc} (hpolling : polling ∈ [Pc.eBusy, .pBusy, .rBusy])
    (hp : w.eng.pc = polling) (hawaits : J.Awaits w.eng.unit w) (hslice : polling = .rBusy → w.SliceLoaded J) :
    w.InPhase J := by
  simp only [List.mem_cons, List.not_mem_nil, or_false] at hpolling
  rcases hpolling with rfl | rfl | rfl
  · simpa [State.InPhase, hp] using hawaits
  · simpa [State.InPhase, hp] using hawaits
  · simpa [State.InPhase, hp] using ⟨hawaits, hslice rfl⟩

/-- A status read of a unit whose command is underway. -/
theorem State.Continues.pollUnit {polling : Pc} (hs : s.Follows J) (hview : u.view = s.view) (hdev : u.dev = s.dev)
    (hmask : u.eng.mask = J.failMask) (hunder : J.Underway s.eng.unit s.dev)
    (hpolling : polling ∈ [Pc.eBusy, .pBusy, .rBusy]) (hslice : polling = .rBusy → u.SliceLoaded J) :
    s.Continues J (u.pollUnit polling) := by
  have hserves := hs.tracks.serves
  have hstates : ∀ p ∈ [Pc.eBusy, .pBusy, .rBusy], p ∉ endStates ∧ p ∉ freshStates := by decide
  obtain ⟨hend, hfresh⟩ := hstates _ hpolling
  have hreply := State.send_status_underway (s := u) (hdev ▸ hunder) hs.sound
    ((congrArg UnitView.cfg hview).trans hserves.cfg) (fun hr => hdev ▸ hserves.unprotected hr)
    (hdev ▸ hs.protocol.noFault)
  have hsent : (u.send [opcRdsr, statusReg] 1).view = s.view := by rw [State.view_send, hview]
  have hunit : u.eng.unit = s.eng.unit := congrArg UnitView.unit hview
  simp only [State.pollUnit, State.poll]
  rcases hreply with hr | ⟨b, hr, hb⟩
  · rw [hr]
    exact .abortUnit hserves hsent (by decide)
  · rw [hr]
    refine .goesOn hsent hend (.of_awaits hpolling rfl ⟨by simpa using hmask, ?_, ?_⟩ ?_) fun hf => absurd hf hfresh
    · intro hbusy
      simpa [hunit] using (hb.resolve_right fun hn => by simp_all).2
    · intro hbusy hclear
      simpa [hunit] using (hb.resolve_left fun hn => by simp_all).2 (by simpa [hmask] using hclear)
    · intro hread
      simpa [State.SliceLoaded] using hslice hread

/-- The first status read of a unit, under the mask of its operation (R170, R171). -/
theorem State.Continues.awaitUnit {mask : Byte} {polling : Pc} (hs : s.Follows J) (hmask : mask = J.failMask)
    (hunder : J.Underway s.eng.unit s.dev) (hpolling : polling ∈ [Pc.eBusy, .pBusy, .rBusy])
    (hslice : polling = .rBusy → s.SliceLoaded J) : s.Continues J ((s.startAwait mask).pollUnit polling) :=
  .pollUnit hs rfl rfl hmask hunder hpolling hslice

/-- The polling state of a unit (R172): it settles with its outcome or with a failure, or goes on in its unit. -/
theorem State.Follows.seqBusy_cases {polling : Pc} {settled failed : State → State} (hs : s.Follows J)
    (hawaits : J.Awaits s.eng.unit s) (hpolling : polling ∈ [Pc.eBusy, .pBusy, .rBusy])
    (hslice : polling = .rBusy → s.SliceLoaded J) :
    (s.seqBusy polling settled failed = settled s ∧ J.Outcome s.eng.unit s.dev) ∨
      (s.seqBusy polling settled failed = failed s ∧ s.eng.status &&& s.eng.mask ≠ 0) ∨
        s.Continues J (s.seqBusy polling settled failed) := by
  by_cases hbusy : busyBit s.eng.status = false
  · by_cases hmask : s.eng.status &&& s.eng.mask = 0
    · exact .inl ⟨State.seqBusy_of_settled hbusy hmask, hawaits.done hbusy hmask⟩
    · exact .inr (.inl ⟨State.seqBusy_of_failed hbusy hmask, hmask⟩)
  · rw [Bool.not_eq_false] at hbusy
    refine .inr (.inr ?_)
    by_cases hpolls : s.eng.polls = s.cfg.pollLimit
    · rw [State.seqBusy_of_limit hbusy hpolls]
      exact .abortUnit hs.tracks.serves rfl (by decide)
    · rw [State.seqBusy_of_again hbusy hpolls]
      exact .pollUnit (u := s.wait) hs rfl rfl hawaits.mask (hawaits.busy hbusy) hpolling hslice

end

/-! #### What the frames of a program unit and of a slice carry -/

section
variable {s t u w : State} {J : Job} {k : Nat}

/-- PLD leaves its data in CACHE and the rest of the device alone (R137). -/
theorem State.acts_pld_data (hidle : s.dev.busy = false) {data : List Byte} (hlen : data.length ≤ s.cfg.pageSize) :
    s.Acts (opcPld :: 0x00 :: 0x00 :: data) 0 fun d => d = { s.dev with cache := d.cache } ∧
      ∀ i (hi : i < data.length), d.cache.read i = data[i] := by
  intro w hcfg hdev
  have hact := (devPld_of_idle (s := w) (col := 0) (data := data) (hdev ▸ hidle) (by simpa [hcfg] using hlen)).2
  rw [deviceReceives_pld, hact]
  exact ⟨by rw [hdev], fun i hi => by simp [Memory.read_fill, hi]⟩

/-- An idle device without fault answers RDC with the bytes of CACHE (R136). -/
theorem State.send_readCache_data (hidle : s.dev.busy = false) (hfault : s.dev.dfault = false) {col n : Nat}
    (hn : 1 ≤ n) (hle : col + n ≤ s.cfg.pageSize) (hc : Regular s.cfg) {d : List Byte}
    (h : (s.send (readCacheFrame col) n).reply = .data d) : d = s.dev.cache.bytes col n := by
  have hpage := hc.pageSize_le
  have hfield : (field16 col).toNat = col := field16_toNat (by omega)
  unfold State.send at h
  rcases State.transact_cases { s with trace := s.trace ++ [.frame (readCacheFrame col) n] }
    (deviceReceives ⟨readCacheFrame col, n⟩) with ⟨-, ht⟩ | ⟨-, ht⟩ | ⟨-, ht⟩ <;> rw [ht] at h <;> cases h
  rw [deviceReceives_rdc col n (by omega), devRdc_of_idle (by exact hidle) (by exact hfault) (by rwa [hfield]), hfield]

/-- A write to the buffer replaces the bytes from its index on. -/
theorem State.buffer_memWrite {i : Nat} {b v : List Byte} (h : s.memWrite i v = some u) (hb : s.buffer = some b) :
    i + v.length ≤ b.length ∧ u.buffer = some (b.take i ++ v ++ b.drop (i + v.length)) := by
  simp only [State.memWrite, hb] at h
  split at h
  · cases h
    exact ⟨‹_›, State.buffer_setBuffer hb⟩
  · cases h

/-- The bytes of a slice in the buffer complete what is to be done before the next one (R203). -/
theorem State.BufferHolds.memWrite {v : List Byte} (h : s.BufferHolds J (J.reach k)) (hop : J.op = hostRead)
    (hJ : J.Sound) (hk : k < spannedPages J.cfg J.offset J.length)
    (hw : s.memWrite (sliceAt J.cfg J.offset J.length k).dst v = some u)
    (hlen : v.length = (sliceAt J.cfg J.offset J.length k).lengthInPage)
    (hv : ∀ i < v.length, v[i]? = some (J.want (J.offset + (sliceAt J.cfg J.offset J.length k).dst + i))) :
    u.BufferHolds J (J.reach (k + 1)) := by
  obtain ⟨out, hout, hsize, hholds⟩ := h
  obtain ⟨hle, hbuffer⟩ := State.buffer_memWrite hw hout
  rw [Job.reach_eq_dst hop] at hholds
  have hfits := (sliceAt_fits hJ.regular.pageSize_pos hJ.nonempty hk).1
  have hend (i : Nat) (hi : i < J.reach (k + 1)) (hilen : i < J.length) :
      i < (sliceAt J.cfg J.offset J.length k).dst + (sliceAt J.cfg J.offset J.length k).lengthInPage := by
    rw [Job.reach, if_pos hop, Job.page, unitPage, ← add_assoc] at hi
    simp only [sliceAt] at hfits ⊢
    omega
  refine ⟨_, hbuffer, by simp; omega, fun i hi hilen => ?_⟩
  have hi' := hend i hi hilen
  by_cases hbefore : i < (sliceAt J.cfg J.offset J.length k).dst
  · rw [List.append_assoc, List.getElem?_append_left (by simp; omega), List.getElem?_take_of_lt hbefore]
    exact hholds i hbefore hilen
  · rw [List.getElem?_append_left (by simp; omega), List.getElem?_append_right (by simp; omega)]
    rw [List.length_take, min_eq_left (by omega), hv _ (by omega)]
    congr 2
    omega

end

/-! #### The states of a unit -/

section
variable {s t u w : State} {J : Job}

namespace State.Follows

/-- A unit of the request in progress. -/
theorem unit_lt (h : s.Follows J) {op : Byte} (hop : s.eng.pc.operation = some op) (hp : s.eng.pc ∈ unitStates) :
    J.op = op ∧ s.Planned ∧ s.eng.unit < s.eng.nunits := by
  obtain ⟨heq, hplanned, hunit⟩ := h.protocol.unit_inPlan hop hp
  exact ⟨h.tracks.serves.op.symm.trans heq, hplanned, hunit⟩

/-- Behind the boundary of a unit PAGE is its page. -/
theorem page_eq (h : s.Follows J) (hp : s.eng.pc ∈ insideStates) : s.eng.page = J.page s.eng.unit := by
  rw [h.confined.page hp, h.tracks.serves.page_eq]

theorem regular (h : s.Follows J) : Regular s.cfg := regular_of_valid h.protocol.config

theorem seqEUnit (h : s.Follows J) : s.Continues J s.seqEUnit := by
  unfold State.seqEUnit
  split
  · exact .raiseCancelled h.tracks.serves
  · exact .unitFrame (D := fun _ => True) h.tracks.serves rfl (fun _ _ _ => trivial) (by decide)
      (fun w heng _ => .of_plain (by simp [heng, plainStates])) (fun hf => absurd hf (by decide))

theorem seqPUnit (h : s.Follows J) (hp : s.eng.pc = .pUnit) : s.Continues J s.seqPUnit := by
  unfold State.seqPUnit
  split
  · exact .raiseCancelled h.tracks.serves
  · refine .unitFrame h.tracks.serves rfl (State.acts_wren (h.protocol.idle (by rw [hp]; decide))) (by decide)
      (fun w heng _ => ?_) (fun _ => ⟨by rw [hp]; decide, fun d hd => by subst hd; exact ⟨rfl, rfl⟩⟩)
    simp [State.InPhase, heng, h.tracks.serves.cfg]

/-- A load is underway behind PRDC: a READ finds ARRAY as it was. -/
theorem seqRUnit (h : s.Follows J) (hp : s.eng.pc = .rUnit) : s.Continues J s.seqRUnit := by
  have hplace : s.eng.pc ∈ unitStates := by rw [hp]; decide
  obtain ⟨hop, -, -⟩ := h.unit_lt (op := hostRead) (by rw [hp]; rfl) hplace
  obtain ⟨-, -, hpage⟩ := h.protocol.planned (op := hostRead) (by rw [hp]; rfl) hplace
  have hserves := h.tracks.serves
  unfold State.seqRUnit
  split
  · exact .raiseCancelled hserves
  · refine .unitFrame (u := s.loadSlice) hserves rfl
      (State.acts_prdc (s := s.loadSlice) (h.protocol.idle (by rw [hp]; decide)) hpage h.regular) (by decide)
      (fun w heng hdev => ?_) (fun hf => absurd hf (by decide))
    have hcommand : J.command s.eng.unit = .load s.loadSlice.eng.page := by
      rw [Job.command_of_read hop, ← hserves.page_eq]; rfl
    have hreads : J.PageReads s.eng.unit w.dev J.want := fun col _ => by
      rw [hdev, hop |> h.sound.reads]
      exact h.tracks.stands.untouched _ fun j _ => Job.not_writes_of_read hop _
    have hunder : J.Underway s.eng.unit w.dev :=
      ⟨by rw [hdev, hcommand], fun hw => absurd (hop.symm.trans hw) (by decide), fun _ => hreads⟩
    simpa [State.InPhase, State.SliceLoaded, heng, hserves.cfg, hserves.offset, hserves.length] using hunder

/-- An erase is underway behind BERS. -/
theorem seqEWel (h : s.Follows J) (hp : s.eng.pc = .eWel) : s.Continues J s.seqEWel := by
  obtain ⟨hop, -, -⟩ := h.unit_lt (op := hostErase) (by rw [hp]; rfl) (by rw [hp]; decide)
  obtain ⟨hwel, hpage⟩ := h.protocol.frameReady.enabled (by simp [hp])
  refine .unitFrame h.tracks.serves rfl
    (State.acts_bers (h.protocol.idle (by rw [hp]; decide)) hwel hpage h.regular) (by decide)
    (fun w heng hdev => ?_) (fun hf => absurd hf (by decide))
  have hunder : J.Underway s.eng.unit w.dev :=
    ⟨by rw [hdev, Job.command_of_erase hop, h.page_eq (by rw [hp]; decide)],
      fun hw => absurd (hop.symm.trans hw) (by decide), fun hr => absurd (hop.symm.trans hr) (by decide)⟩
  simpa [State.InPhase, heng] using hunder

/-- The data of a program unit are the buffer's bytes for its page (R242). -/
theorem memRead_data (h : s.Follows J) (hp : s.eng.pc = .pWel) {d : List Byte}
    (hd : s.memRead s.eng.dst s.cfg.pageSize = some d) :
    d.length = J.cfg.pageSize ∧
      ∀ i (hi : i < d.length), d[i] = J.want (pageBase J.cfg (J.page s.eng.unit) + i) := by
  obtain ⟨hop, hplanned, hunit⟩ := h.unit_lt (op := hostWrite) (by rw [hp]; rfl) (by rw [hp]; decide)
  have hserves := h.tracks.serves
  obtain ⟨out, hout, hsize, hholds⟩ := h.tracks.buffer (.inr hop)
  have hdst : s.eng.dst = s.eng.unit * J.cfg.pageSize := by
    have hphase := h.tracks.phase
    simpa [State.InPhase, hp] using hphase
  simp only [State.memRead, hout] at hd
  split at hd
  · cases hd
    rename_i hle
    rw [hserves.cfg] at hle ⊢
    have hoffset : J.offset / J.cfg.pageSize * J.cfg.pageSize = J.offset := by
      have hchecks := hplanned.checks
      simp only [State.checksPass, hserves.op.trans hop, if_neg (show hostWrite ≠ hostErase by decide), if_true,
        writeChecks, Bool.and_eq_true] at hchecks
      have haligned := (alignedTo_iff.1 hchecks.2).1
      rw [hserves.cfg, hserves.offset] at haligned
      exact Nat.div_mul_cancel haligned
    have hbase : pageBase J.cfg (J.page s.eng.unit) = J.offset + s.eng.unit * J.cfg.pageSize := by
      rw [pageBase, Job.page, unitPage, add_mul, hoffset]
    refine ⟨by simp; omega, fun i hi => ?_⟩
    have hi' : i < J.cfg.pageSize := by simp at hi; omega
    have hread := hholds (s.eng.dst + i) (by rw [Job.reach, if_neg (by rw [hop]; decide)]; omega) (by omega)
    rw [hbase, add_assoc, ← hdst]
    simpa using (List.getElem?_eq_some_iff.1 hread).2
  · cases hd

end State.Follows

end

section
variable {s t u w : State} {J : Job}

namespace State.Follows

/-- PLD carries the bytes that are wanted for the page into CACHE. -/
theorem seqPWel (h : s.Follows J) (hp : s.eng.pc = .pWel) (hseq : s.seqPWel = .next t) : s.Continues J t := by
  have hserves := h.tracks.serves
  unfold State.seqPWel at hseq
  split at hseq
  · cases hseq
  · rename_i d hd
    cases hseq
    obtain ⟨hlen, hdata⟩ := h.memRead_data hp hd
    refine .unitFrame hserves rfl
      (State.acts_pld_data (h.protocol.idle (by rw [hp]; decide)) (by rw [hserves.cfg, hlen])) (by decide)
      (fun w heng hdev => ?_)
      (fun _ => ⟨by rw [hp]; decide, fun d' hd' => by rw [hd'.1]; exact ⟨rfl, rfl⟩⟩)
    have hcache : J.CacheHolds s.eng.unit w.dev := fun col hcol => by
      rw [hdev.2 col (by omega), hdata col (by omega)]
    simpa [State.InPhase, heng] using hcache

/-- The page of a program unit that has not begun is erased: the request found it so, and no unit before has written
it (R82). -/
theorem page_blank (h : s.Follows J) (hp : s.eng.pc = .pLoaded) :
    J.PageReads s.eng.unit s.dev fun _ => erasedByte := by
  obtain ⟨hop, hplanned, hunit⟩ := h.unit_lt (op := hostWrite) (by rw [hp]; rfl) (by rw [hp]; decide)
  have hserves := h.tracks.serves
  have hstands := h.tracks.stands
  rw [State.started, if_pos (by rw [hp]; decide)] at hstands
  intro col hcol
  have hpage : (pageBase J.cfg (J.page s.eng.unit) + col) / J.cfg.pageSize = J.page s.eng.unit := by
    rw [pageBase, Nat.div_eq_iff h.sound.regular.pageSize_pos]
    omega
  have hwithin : s.Addresses (pageBase J.cfg (J.page s.eng.unit) + col) := by
    refine hplanned.program_within h.regular (hserves.op.trans hop) hunit ?_
    rw [hserves.page_eq, hserves.cfg]
    exact ⟨Nat.le_add_right _ _, Nat.add_lt_add_left hcol _⟩
  rw [State.Addresses, hserves.offset, hserves.length] at hwithin
  rw [hstands.untouched _ fun j hj => ?_, h.sound.blank hop _ hwithin.1 hwithin.2]
  rw [Job.writes_iff_of_write hop h.sound.regular, hpage]
  simp only [Job.page, unitPage]
  omega

/-- A program is underway behind PEX. -/
theorem seqPLoaded (h : s.Follows J) (hp : s.eng.pc = .pLoaded) : s.Continues J s.seqPLoaded := by
  obtain ⟨hop, -, -⟩ := h.unit_lt (op := hostWrite) (by rw [hp]; rfl) (by rw [hp]; decide)
  obtain ⟨hwel, hpage⟩ := h.protocol.frameReady.enabled (by simp [hp])
  have hcache : J.CacheHolds s.eng.unit s.dev := by simpa [State.InPhase, hp] using h.tracks.phase
  have hblank := h.page_blank hp
  refine .unitFrame h.tracks.serves rfl
    (State.acts_pex (h.protocol.idle (by rw [hp]; decide)) hwel hpage h.regular) (by decide)
    (fun w heng hdev => ?_) (fun hf => absurd hf (by decide))
  have hunder : J.Underway s.eng.unit w.dev :=
    ⟨by rw [hdev, Job.command_of_write hop, h.page_eq (by rw [hp]; decide)],
      fun _ => by rw [hdev]; exact ⟨hcache, hblank⟩, fun hr => absurd (hop.symm.trans hr) (by decide)⟩
  simpa [State.InPhase, heng] using hunder

theorem seqECmd (h : s.Follows J) (hp : s.eng.pc = .eCmd) : s.Continues J s.seqECmd := by
  obtain ⟨hop, -, -⟩ := h.unit_lt (op := hostErase) (by rw [hp]; rfl) (by rw [hp]; decide)
  exact .awaitUnit h (by rw [Job.failMask, if_pos hop]) (by simpa [State.InPhase, hp] using h.tracks.phase) (by decide)
    nofun

theorem seqPCmd (h : s.Follows J) (hp : s.eng.pc = .pCmd) : s.Continues J s.seqPCmd := by
  obtain ⟨hop, -, -⟩ := h.unit_lt (op := hostWrite) (by rw [hp]; rfl) (by rw [hp]; decide)
  exact .awaitUnit h (by rw [Job.failMask, hop]; rfl) (by simpa [State.InPhase, hp] using h.tracks.phase) (by decide)
    nofun

theorem seqRPageLoaded (h : s.Follows J) (hp : s.eng.pc = .rPageLoaded) : s.Continues J s.seqRPageLoaded := by
  obtain ⟨hop, -, -⟩ := h.unit_lt (op := hostRead) (by rw [hp]; rfl) (by rw [hp]; decide)
  obtain ⟨hunder, hslice⟩ : J.Underway s.eng.unit s.dev ∧ s.SliceLoaded J := by
    simpa [State.InPhase, hp] using h.tracks.phase
  exact .awaitUnit h (by rw [Job.failMask, hop]; rfl) hunder (by decide) fun _ => hslice

end State.Follows

end

/-- The states in flight in which no unit is in progress: one was counted, or the response is due. -/
def betweenStates : List Pc := [.eReady, .pReady, .respond]

/-- The polling states in which a unit is counted, with the states behind a settled and a failed unit. -/
def countingStates : List (Pc × Pc × Pc) := [(.eBusy, .eReady, .eFailed), (.pBusy, .pReady, .pFailed)]

section
variable {s t u w : State} {J : Job}

namespace State.Follows

/-- While a unit is in progress it is one of the plan, and RESULT is OK. -/
theorem inProgress (h : s.Follows J) (hin : s.eng.pc.inFlight = true) (hp : s.eng.pc ∉ betweenStates) :
    s.eng.unit < s.eng.nunits ∧ s.eng.result = .ok := by
  have hphase := h.tracks.phase
  have hgoing := h.tracks.going
  unfold State.InPhase at hphase
  simp only [betweenStates, List.mem_cons, List.not_mem_nil, or_false, not_or] at hp
  obtain ⟨he, hr, hresponse⟩ := hp
  refine ⟨?_, hgoing ?_⟩
  · cases hop : s.eng.pc.operation with
    | some op => exact h.protocol.planStands.inPlan (by rw [hop]; simp) he hr
    | none => cases hpc : s.eng.pc <;> simp_all [Pc.operation, Pc.inFlight]
  · cases hpc : s.eng.pc <;> simp_all [endStates, Pc.inFlight]

/-- A move that stays in the unit in progress keeps the invariant. -/
theorem tracks_of_continues (h : s.Follows J) (hin : s.eng.pc.inFlight = true) (hp : s.eng.pc ∉ betweenStates)
    (hseq : s.seq = .next t) (hcont : s.Continues J t) : t.Tracks J := by
  obtain ⟨hunit, hresult⟩ := h.inProgress hin hp
  exact hcont.tracks h hin hunit hresult hseq

/-- A unit that has its outcome is counted (R223, R243). -/
theorem unitReady (h : s.Follows J) {ready failed : Pc} (hp : (s.eng.pc, ready, failed) ∈ countingStates)
    (hout : J.Outcome s.eng.unit s.dev) : (s.unitReady ready).Tracks J := by
  have hstates : ∀ e ∈ countingStates, e.1.inFlight = true ∧ e.1 ∉ betweenStates ∧ e.1 ∈ unitStates ∧
    e.1 ∉ freshStates ∧ (e.1.operation = some hostErase ∨ e.1.operation = some hostWrite) ∧
    e.2.1 ∉ endStates ∧ e.2.1 ∈ plainStates := by decide
  obtain ⟨hin, hbetween, hplace, hfresh, hoperation, hend, hplain⟩ := hstates _ hp
  obtain ⟨hunit, hresult⟩ := h.inProgress hin hbetween
  have hop : J.op ≠ hostRead := by
    rcases hoperation with hop | hop <;> rw [(h.unit_lt hop hplace).1] <;> decide
  have hstands := h.tracks.stands
  rw [State.started, if_neg hfresh] at hstands
  obtain ⟨hcfg, hsop, hoffset, hlength, hnunits, hbp⟩ := h.tracks.serves
  refine ⟨⟨hcfg, hsop, hoffset, hlength, hnunits, hbp⟩, hunit, (hstands.count hout).mono ?_, fun hrw => ?_,
    fun _ => hresult, fun he => absurd he hend, .of_plain hplain⟩
  · unfold State.started
    split
    · exact le_rfl
    · exact Nat.le_succ _
  · have hreach (k : Nat) : J.reach k = J.length := by rw [Job.reach, if_neg hop]
    rw [hreach, ← hreach s.eng.unit]
    exact (h.tracks.buffer hrw :)

/-- The polling state of an erase or program unit: it is counted, or it goes on or fails in its unit. -/
theorem seqBusy (h : s.Follows J) {polling ready failed : Pc} (hp : s.eng.pc = polling)
    (hmem : (polling, ready, failed) ∈ countingStates)
    (hseq : s.seq = .next (s.seqBusy polling (·.unitReady ready) (·.goto failed))) :
    (s.seqBusy polling (·.unitReady ready) (·.goto failed)).Tracks J := by
  have hstates : ∀ e ∈ countingStates, e.1.inFlight = true ∧ e.1 ∉ betweenStates ∧
    e.1 ∈ [Pc.eBusy, .pBusy, .rBusy] ∧ e.1 ≠ .rBusy ∧ e.2.2 ∉ endStates ∧ e.2.2 ∉ freshStates ∧
    (e.1 = .eBusy ∨ e.1 = .pBusy) ∧ e.2.2 ∈ plainStates := by decide
  obtain ⟨hin, hbetween, hpolling, hread, hend, hfresh, hbusy, hplain⟩ := hstates _ hmem
  have hawaits : J.Awaits s.eng.unit s := by
    have hphase := h.tracks.phase
    rcases hbusy with hb | hb <;> simpa [State.InPhase, hp, show polling = _ from hb] using hphase
  subst hp
  rcases h.seqBusy_cases (settled := (·.unitReady ready)) (failed := (·.goto failed)) hawaits hpolling
    (fun he => absurd he hread) with ⟨heq, hout⟩ | ⟨heq, -⟩ | hcont
  · rw [heq]
    exact h.unitReady hmem hout
  · rw [heq] at hseq ⊢
    exact h.tracks_of_continues hin hbetween hseq (.goesOn rfl hend (.of_plain hplain) fun hf => absurd hf hfresh)
  · exact h.tracks_of_continues hin hbetween hseq hcont

/-- A slice that is ready to be read has its bytes in CACHE. -/
theorem seqRBusy (h : s.Follows J) (hp : s.eng.pc = .rBusy) : s.Continues J s.seqRBusy := by
  obtain ⟨hop, -, -⟩ := h.unit_lt (op := hostRead) (by rw [hp]; rfl) (by rw [hp]; decide)
  obtain ⟨hawaits, hslice⟩ : J.Awaits s.eng.unit s ∧ s.SliceLoaded J := by
    simpa [State.InPhase, hp] using h.tracks.phase
  have hmask : s.eng.mask = 0 := by rw [hawaits.mask, Job.failMask, hop]; rfl
  rcases h.seqBusy_cases (polling := .rBusy) (settled := (·.goto .rReady)) (failed := (·.goto .rReady)) hawaits
    (by decide) (fun _ => hslice) with ⟨heq, hout⟩ | ⟨-, hfails⟩ | hcont
  · rw [State.seqRBusy, heq]
    refine .goesOn rfl (by simp [endStates]) ?_ fun hf => absurd hf (by simp [freshStates])
    have hcache := hout.loaded hop
    simpa [State.InPhase] using ⟨hcache, hslice⟩
  · simp [hmask] at hfails
  · exact hcont

theorem seqFailed (h : s.Follows J) (hp : s.eng.pc = .eFailed ∨ s.eng.pc = .pFailed) : s.Continues J s.seqFailed := by
  obtain ⟨hunit, -⟩ := h.inProgress (by rcases hp with hp | hp <;> rw [hp] <;> rfl)
    (by rcases hp with hp | hp <;> rw [hp] <;> decide)
  unfold State.seqFailed
  split
  · exact .goesOn rfl (by simp [endStates]) (by simpa [State.InPhase] using hunit) fun hf =>
      absurd hf (by simp [freshStates])
  · exact .raise rfl (by decide)

/-- RDC carries the bytes of the slice from CACHE to their place in the buffer (R263). -/
theorem slice_data (h : s.Follows J) (hp : s.eng.pc = .rReady) {d : List Byte}
    (hd : (s.send (readCacheFrame s.eng.col) s.eng.slen).reply = .data d) :
    d.length = (sliceAt J.cfg J.offset J.length s.eng.unit).lengthInPage ∧
      ∀ i < d.length, d[i]? = some (J.want (J.offset + (sliceAt J.cfg J.offset J.length s.eng.unit).dst + i)) := by
  obtain ⟨hcache, hcol, hslen, -⟩ : J.CacheHolds s.eng.unit s.dev ∧ s.SliceLoaded J := by
    simpa [State.InPhase, hp] using h.tracks.phase
  obtain ⟨hfirst, hfits⟩ := h.protocol.frameReady.sliceFits (by simp [hp])
  rw [State.send_readCache_data (h.protocol.idle (by rw [hp]; decide)) h.protocol.noFault hfirst hfits h.regular hd]
  refine ⟨by rw [Memory.bytes_length, hslen], fun i hi => ?_⟩
  rw [Memory.bytes_length] at hi
  rw [h.tracks.serves.cfg] at hfits
  rw [Memory.getElem?_bytes _ _ _ _ hi, hcache _ (by omega), hcol]
  congr 2
  simp only [pageBase, Job.page, unitPage, sliceAt]
  omega

/-- A slice whose bytes are in the buffer is counted. -/
theorem sliceRead (h : s.Follows J) (hp : s.eng.pc = .rReady) {d : List Byte}
    (hd : (s.send (readCacheFrame s.eng.col) s.eng.slen).reply = .data d)
    (hu : (s.send (readCacheFrame s.eng.col) s.eng.slen).memWrite s.eng.dst d = some u) :
    (State.loopTest { u with eng := { u.eng with unit := u.eng.unit + 1 } }).Tracks J := by
  obtain ⟨hunit, hresult⟩ := h.inProgress (by rw [hp]; rfl) (by rw [hp]; decide)
  obtain ⟨hop, -, -⟩ := h.unit_lt (op := hostRead) (by rw [hp]; rfl) (by rw [hp]; decide)
  obtain ⟨hcache, -, -, hdst⟩ : J.CacheHolds s.eng.unit s.dev ∧ s.SliceLoaded J := by
    simpa [State.InPhase, hp] using h.tracks.phase
  have hserves := h.tracks.serves
  have hidle := h.protocol.idle (by rw [hp]; decide)
  have heng : u.eng = s.eng := (State.memWrite_eng hu).trans (by simp)
  have hdev : u.dev = s.dev := by
    obtain ⟨hfirst, hfits⟩ := h.protocol.frameReady.sliceFits (by simp [hp])
    exact (State.memWrite_dev hu).trans
      ((s.send_dev (State.acts_rdc hidle hfirst hfits h.regular)).elim id And.left)
  have hledger : u.ledger true = s.ledger true :=
    (State.ledger_memWrite _ hu fun _ => by
      rw [State.send_eng]; exact ne_erase_write_of_read (hserves.op.trans hop)).trans
      (s.ledger_send (fun _ => by simp [readCacheFrame, opcRdc, opcWrsr]) _)
  have hout : J.Outcome s.eng.unit s.dev :=
    ⟨by simpa [Device.busy] using hidle, fun a ha => absurd ha (Job.not_writes_of_read hop a), fun _ => hcache⟩
  have hstands := h.tracks.stands
  rw [State.started, if_neg (by rw [hp]; decide)] at hstands
  have hbuffer : u.BufferHolds J (J.reach (s.eng.unit + 1)) := by
    obtain ⟨hlen, hdata⟩ := h.slice_data hp hd
    have hspan : s.eng.unit < spannedPages J.cfg J.offset J.length := by
      rwa [hserves.nunits, Job.units, if_neg (by rw [hop]; decide)] at hunit
    exact ((h.tracks.buffer (.inl hop)).of_view (s.view_send _ _)).memWrite hop h.sound hspan (hdst ▸ hu) hlen hdata
  obtain ⟨hcfg, hsop, hoffset, hlength, hnunits, hbp⟩ := hserves.of_ledger hledger
  refine State.loopTest_tracks ⟨hcfg, hsop, hoffset, hlength, hnunits, hbp⟩ ?_ ?_ ?_ fun _ => ?_
  · simpa only [heng] using Nat.succ_le_of_lt hunit
  · simpa only [heng] using hresult
  · simpa only [heng, hdev] using hstands.count hout
  · change u.BufferHolds J (J.reach (u.eng.unit + 1))
    rwa [heng]

theorem seqRReady (h : s.Follows J) (hp : s.eng.pc = .rReady) (hseq : s.seqRReady = .next t) : t.Tracks J := by
  have hmove : s.seq = .next t := by rw [← hseq]; simp only [State.seq, hp]
  simp only [State.seqRReady] at hseq
  split at hseq
  · cases hseq
    exact h.tracks_of_continues (by rw [hp]; rfl) (by rw [hp]; decide) hmove
      (.abortUnit h.tracks.serves (s.view_send _ _) (by decide))
  · rename_i d hd
    split at hseq
    · cases hseq
    · rename_i u hu
      cases hseq
      exact h.sliceRead hp hd hu

/-- Behind a counted unit the loop goes on, or the request has ended. -/
theorem loopTest (h : s.Follows J) (hp : s.eng.pc = .eReady ∨ s.eng.pc = .pReady) : s.loopTest.Tracks J := by
  have hstates : ∀ p ∈ [Pc.eReady, .pReady], p ∈ freshStates ∧ p ∉ endStates := by decide
  obtain ⟨hfresh, hend⟩ := hstates s.eng.pc (by simpa using hp)
  obtain ⟨hserves, hbounded, hstands, hbuffer, hgoing, -, -⟩ := h.tracks
  rw [State.started, if_pos hfresh] at hstands
  exact State.loopTest_tracks hserves hbounded (hgoing hend) hstands hbuffer

/-- WRDI, which a failed unit leaves to do, does not change what stands (R305). -/
theorem seqWrdi (J : Job) (s : State) : s.Continues J s.seqWrdi := by
  have hsent : (s.send [opcWrdi] 0).view = s.view := s.view_send _ _
  simp only [State.seqWrdi]
  split
  · exact .raise (by exact hsent) (by decide)
  · exact .raise hsent (by decide)

end State.Follows

end

section
variable {s t : State} {J : Job}

namespace State.Follows

/-- The response changes nothing that is followed. -/
theorem respond (h : s.Follows J) (hp : s.eng.pc = .respond) : s.respond.Tracks J := by
  obtain ⟨⟨hcfg, hop, hoffset, hlength, hnunits, hbp⟩, hbounded, hstands, hbuffer, -, hended, -⟩ := h.tracks
  have hpc : s.respond.eng.pc ∉ freshStates ∧ s.respond.eng.pc ∈ endStates ∧ s.respond.eng.pc ∈ plainStates := by
    rcases s.respond_pc with he | he <;> rw [he] <;> decide
  obtain ⟨hfresh, hend, hplain⟩ := hpc
  rw [State.started, if_neg (by rw [hp]; decide)] at hstands
  refine ⟨⟨hcfg, hop, hoffset, hlength, hnunits, hbp⟩, hbounded, ?_, fun hrw => hbuffer hrw, fun hn => absurd hend hn,
    fun _ => hended (by rw [hp]; decide), .of_plain hplain⟩
  rw [State.started, if_neg hfresh]
  exact hstands

/-- Every move of the run keeps the invariant. -/
theorem seq (h : s.Follows J) (hin : s.eng.pc.inFlight = true) (hseq : s.seq = .next t) : t.Tracks J := by
  have hphase := h.tracks.phase
  have hcont (hp : s.eng.pc ∉ betweenStates) : s.Continues J t → t.Tracks J := h.tracks_of_continues hin hp hseq
  have hmove := hseq
  unfold State.InPhase at hphase
  unfold State.seq at hseq
  cases hp : s.eng.pc <;> rw [hp] at hin hphase hseq hcont <;> try cases hseq
  case bringup | idle | dead => cases hin
  case recover => exact hphase.elim
  case eUnit => exact hcont (by decide) h.seqEUnit
  case eWel => exact hcont (by decide) (h.seqEWel hp)
  case eCmd => exact hcont (by decide) (h.seqECmd hp)
  case eBusy => exact h.seqBusy hp (by decide) hmove
  case eReady => exact h.loopTest (.inl hp)
  case eFailed => exact hcont (by decide) (h.seqFailed (.inl hp))
  case pUnit => exact hcont (by decide) (h.seqPUnit hp)
  case pWel => exact hcont (by decide) (h.seqPWel hp hseq)
  case pLoaded => exact hcont (by decide) (h.seqPLoaded hp)
  case pCmd => exact hcont (by decide) (h.seqPCmd hp)
  case pBusy => exact h.seqBusy hp (by decide) hmove
  case pReady => exact h.loopTest (.inr hp)
  case pFailed => exact hcont (by decide) (h.seqFailed (.inr hp))
  case rUnit => exact hcont (by decide) (h.seqRUnit hp)
  case rPageLoaded => exact hcont (by decide) (h.seqRPageLoaded hp)
  case rBusy => exact hcont (by decide) (h.seqRBusy hp)
  case rReady => exact h.seqRReady hp hseq
  case wrdi => exact hcont (by decide) (seqWrdi J s)
  case respond => exact h.respond hp

theorem takeMove (h : s.Follows J) : s.takeMove.Follows J := by
  obtain ⟨hsound, hprotocol, hconfined, ⟨hcfg, hop, hoffset, hlength, hnunits, hbp⟩, hbounded, hstands, hbuffer,
    hgoing, hended, hphase⟩ := h
  refine ⟨hsound, hprotocol.takeMove, hconfined.takeMove, ⟨hcfg, hop, hoffset, hlength, hnunits, hbp⟩, hbounded,
    hstands, hbuffer, hgoing, hended, ?_⟩
  have hawaits (ha : J.Awaits s.eng.unit s) : J.Awaits s.eng.unit s.takeMove := ⟨ha.mask, ha.busy, ha.done⟩
  unfold State.InPhase at hphase ⊢
  rw [show s.takeMove.eng.pc = s.eng.pc from rfl]
  cases hp : s.eng.pc <;> rw [hp] at hphase
  case eBusy | pBusy => exact hawaits hphase
  case rBusy => exact hphase.imp_left hawaits
  all_goals exact hphase

theorem transition (h : s.Follows J) (hin : s.eng.pc.inFlight = true) (hmove : s.transition = .next t) :
    t.Follows J := by
  have hseq : s.takeMove.seq = .next t := h.protocol.transition_eq ▸ hmove
  exact ⟨h.sound, h.protocol.transition (Pc.not_ready_of_inFlight hin) hmove,
    h.protocol.takeMove.confined_seq h.confined.takeMove hin hseq, h.takeMove.seq hin hseq⟩

theorem runRequest (h : s.Follows J) (hrun : s.runRequest = .next t) : t.Follows J :=
  runInFlight_induction (R := fun u v => u.Follows J → v.Follows J) (fun _ hu => hu)
    (fun _ _ _ hin hmove hrest hu => hrest (hu.transition hin hmove)) hrun h

end State.Follows

end

section
variable {s t : State} {i : Instr} {r : Request} {want : Nat → Byte}

/-- The job of a request that the state accepts. -/
def State.job (s : State) (r : Request) (want : Nat → Byte) : Job := ⟨s.cfg, r.op, r.offset, r.length, s.dev, want⟩

/-- A request that passes its checks, with the device known to execute nothing, begins with its first unit (R284,
R285). -/
theorem State.dispatch_of_planned (hchecks : s.checksPass = true) (hlength : 0 < s.eng.length)
    (halive : s.eng.wasDead = false) (hclear : s.eng.maybeBusy = false) : s.dispatch = s.withPlan.firstUnit := by
  have hop : s.eng.op ≠ hostGeometry := fun hop => by
    simp [State.checksPass, hop, hostGeometry, hostErase, hostWrite, hostRead] at hchecks
  simp [State.dispatch, State.handle, hop, hchecks, hlength.ne', halive, State.startUnits, State.withPlan, hclear]

/-- A request that keeps its duty runs to its response, in IDLE again. -/
theorem State.Protocol.exists_exec (hs : s.Protocol) (hp : s.eng.pc = .idle) (hi : encode i = .request r)
    (hduty : (s.accept r).DutyKept) :
    ∃ t, Machine.exec i s = .next t ∧ (s.accept r).dispatch.runRequest = .next t ∧ t.eng.pc = .idle := by
  have hready : s.eng.pc.ready = true := by rw [hp]; rfl
  obtain ⟨t, hrun, hanswer⟩ := State.runRequest_answers (s := s.accept r) (pollLimit_pos hs.config) hs.noReset hduty
  refine ⟨t, ?_, hrun, (hanswer.pc_of_accept hready).trans hp⟩
  rw [exec_of_record hi hready, if_neg, hrun]
  rintro ⟨hop, hkept⟩
  rw [hduty hop] at hkept
  cases hkept

/-- A request that passes its checks begins with its first unit, and is followed from there. -/
theorem State.Protocol.follows_dispatch (hs : s.Protocol) (hp : s.eng.pc = .idle) (hclear : s.eng.maybeBusy = false)
    (hchecks : (s.accept r).checksPass = true) (hJ : (s.job r want).Sound) (hbp : r.op ≠ hostRead → s.dev.bp = 0x00)
    (hbuffer : r.op = hostRead ∨ r.op = hostWrite →
      (s.accept r).BufferHolds (s.job r want) ((s.job r want).reach 0)) :
    (s.accept r).dispatch = (s.accept r).withPlan.firstUnit ∧ (s.accept r).dispatch.Follows (s.job r want) := by
  have hready : s.eng.pc.ready = true := by rw [hp]; rfl
  have halive : (s.accept r).eng.wasDead = false := by rw [State.accept_eng, hp]; rfl
  have hidle : s.dev.busy = false := hs.accept_idle hready r (.inl hclear)
  have hpending : s.dev.pending = none := by simpa [Device.busy] using hidle
  have hdispatch := State.dispatch_of_planned hchecks hJ.nonempty halive hclear
  refine ⟨hdispatch, hJ, hs.dispatch hready r, (s.accept r).dispatch_begins.confined hidle, ?_⟩
  rw [hdispatch]
  exact State.loopTest_tracks ⟨rfl, rfl, rfl, rfl, rfl, hbp⟩ (Nat.zero_le _) rfl
    ⟨fun p hp => absurd (hpending.symm.trans hp) nofun, fun j hj => absurd hj (Nat.not_lt_zero j), fun _ _ => rfl⟩
    fun hop => hbuffer hop

/-- Every request that passes its checks is followed from its first unit to its response. -/
theorem State.Protocol.exists_exec_follows (hs : s.Protocol) (hp : s.eng.pc = .idle)
    (hclear : s.eng.maybeBusy = false) (hi : encode i = .request r) (hchecks : (s.accept r).checksPass = true)
    (hJ : (s.job r want).Sound) (hbp : r.op ≠ hostRead → s.dev.bp = 0x00)
    (hbuffer : r.op = hostRead ∨ r.op = hostWrite →
      (s.accept r).BufferHolds (s.job r want) ((s.job r want).reach 0)) :
    ∃ t, Machine.exec i s = .next t ∧ t.Follows (s.job r want) ∧ t.eng.pc = .idle ∧ t.eng.buf = r.buf := by
  obtain ⟨t, hexec, hrun, htp⟩ := hs.exists_exec hp hi fun hop => by
    obtain ⟨out, hout, hlen, -⟩ := hbuffer hop
    exact State.bufferKept_iff.2 (by rw [hout]; exact congrArg some hlen)
  obtain ⟨-, -, -, -, -, -, -, hbuf⟩ :=
    State.fields_of_order (order_of_exec hi (by rw [hp]; rfl) hs.noReset hexec)
  obtain ⟨-, hfollows⟩ := hs.follows_dispatch hp hclear hchecks hJ hbp hbuffer
  exact ⟨t, hexec, hfollows.runRequest hrun, htp, hbuf⟩

end

/-! #### What the end of a request tells -/

section
variable {s t : State} {J : Job}

/-- A page between the first one of the range and that of unit `k` belongs to a unit before it. -/
theorem Job.exists_page_eq {k a : Nat} (ha : J.offset ≤ a) (hbefore : a / J.cfg.pageSize < J.page k) :
    ∃ j < k, J.page j = a / J.cfg.pageSize := by
  have hle : J.offset / J.cfg.pageSize ≤ a / J.cfg.pageSize := Nat.div_le_div_right ha
  unfold Job.page unitPage at *
  exact ⟨a / J.cfg.pageSize - J.offset / J.cfg.pageSize, by omega, by omega⟩

namespace State.Follows

/-- Blocks of an ERASE before that of its unit in progress are erased. -/
theorem read_of_erased (h : s.Follows J) (hop : J.op = hostErase) {a : Nat} (ha : J.offset ≤ a)
    (hbefore : a / J.cfg.blockSize < J.page s.eng.unit / J.cfg.pagesPerBlock) :
    s.dev.array.read a = erasedByte := by
  have hblock : a / J.cfg.blockSize = a / J.cfg.pageSize / J.cfg.pagesPerBlock :=
    (Nat.div_div_eq_div_mul _ _ _).symm
  obtain ⟨j, hj, hpage⟩ := Job.exists_page_eq (k := s.eng.unit) ha (Nat.lt_of_div_lt_div (hblock ▸ hbefore))
  rw [← h.sound.erases hop a]
  refine h.tracks.stands.stored j hj a ?_ ?_ <;> rw [Job.writes_iff_of_erase hop h.sound.regular]
  · rw [hpage, hblock]
  · exact hbefore.ne

/-- Blocks of an ERASE behind that of its unit in progress are as before. -/
theorem read_of_not_erased (h : s.Follows J) (hop : J.op = hostErase) {a : Nat}
    (hafter : J.page s.eng.unit / J.cfg.pagesPerBlock < a / J.cfg.blockSize) :
    s.dev.array.read a = J.base.array.read a := by
  refine h.tracks.stands.untouched a fun j hj => ?_
  have hle : J.page j ≤ J.page s.eng.unit := by
    unfold State.started at hj
    simp only [Job.page, unitPage]
    split at hj <;> omega
  rw [Job.writes_iff_of_erase hop h.sound.regular]
  exact (lt_of_le_of_lt (Nat.div_le_div_right hle) hafter).ne'

/-- Pages of a WRITE before that of its unit in progress hold the buffer's bytes. -/
theorem read_of_written (h : s.Follows J) (hop : J.op = hostWrite) {a : Nat} (ha : J.offset ≤ a)
    (hbefore : a / J.cfg.pageSize < J.page s.eng.unit) : s.dev.array.read a = J.want a := by
  obtain ⟨j, hj, hpage⟩ := Job.exists_page_eq ha hbefore
  refine h.tracks.stands.stored j hj a ?_ ?_ <;> rw [Job.writes_iff_of_write hop h.sound.regular]
  · exact hpage.symm
  · exact hbefore.ne

/-- Pages of a WRITE behind that of its unit in progress are as before. -/
theorem read_of_not_written (h : s.Follows J) (hop : J.op = hostWrite) {a : Nat}
    (hafter : J.page s.eng.unit < a / J.cfg.pageSize) : s.dev.array.read a = J.base.array.read a := by
  refine h.tracks.stands.untouched a fun j hj => ?_
  rw [Job.writes_iff_of_write hop h.sound.regular]
  unfold State.started at hj
  simp only [Job.page, unitPage] at hafter ⊢
  split at hj <;> omega

/-- Behind the response UNIT counts the units that stand, all of them exactly when RESULT is OK. -/
theorem counted (h : s.Follows J) (hp : s.eng.pc = .idle) {n : Nat} (hn : J.units = n) :
    s.eng.unit ≤ n ∧ (s.eng.result = .ok ↔ s.eng.unit = n) := by
  rw [← hn, ← h.tracks.serves.nunits]
  exact ⟨h.tracks.bounded, h.tracks.ended (by rw [hp]; decide)⟩

end State.Follows

end

/-! #### The three operations -/

section
variable {s : State} {offset length : Nat}

/-- The job of an ERASE: every byte of the range is to be erased. -/
def State.eraseJob (s : State) (offset length : Nat) (buf : Option Nat) : Job :=
  s.job ⟨hostErase, offset, length, buf⟩ fun _ => erasedByte

theorem State.Protocol.eraseJob_sound (hs : s.Protocol) (hlength : 0 < length) (buf : Option Nat) :
    (s.eraseJob offset length buf).Sound := by
  have hne : hostErase ≠ hostRead ∧ hostErase ≠ hostWrite := by decide
  exact ⟨regular_of_valid hs.config, hlength, fun _ _ => rfl, fun h => absurd h hne.1, fun h => absurd h hne.2⟩

/-- An ERASE has no buffer to fill or to send. -/
theorem hostErase_not_buffered : ¬ (hostErase = hostRead ∨ hostErase = hostWrite) := by decide

/-- An ERASE runs one unit for each page of its range (R195). -/
theorem State.eraseJob_units (hlength : 0 < length) (buf : Option Nat)
    (hchecks : eraseChecks s.cfg offset length = true) :
    (s.eraseJob offset length buf).units = length / s.cfg.pageSize :=
  spannedPages_of_aligned (alignedTo_pageSize_of_blockSize (Bool.and_eq_true_iff.1 hchecks).2) hlength

/-- An ERASE that passes its checks, however it ends. -/
theorem State.Protocol.exec_erase (hs : s.Protocol) (hp : s.eng.pc = .idle) (hclear : s.eng.maybeBusy = false)
    (hlength : 0 < length) (buf : Option Nat) (hchecks : eraseChecks s.cfg offset length = true)
    (hbp : s.dev.bp = 0x00) :
    ∃ t, Machine.exec (.erase offset length buf) s = .next t ∧
      t.eng.unit ≤ length / s.cfg.pageSize ∧ (t.eng.result = .ok ↔ t.eng.unit = length / s.cfg.pageSize) ∧
      (∀ a, offset ≤ a → a < offset + length →
        a / s.cfg.blockSize < (offset / s.cfg.pageSize + t.eng.unit) / s.cfg.pagesPerBlock →
        t.dev.array.read a = 0xFF) ∧
      (∀ a, (offset / s.cfg.pageSize + t.eng.unit) / s.cfg.pagesPerBlock < a / s.cfg.blockSize →
        t.dev.array.read a = s.dev.array.read a) := by
  obtain ⟨t, hexec, hfollows, htp, -⟩ := hs.exists_exec_follows (i := .erase offset length buf) hp hclear rfl hchecks
    (hs.eraseJob_sound hlength buf) (fun _ => hbp) fun h => absurd h hostErase_not_buffered
  obtain ⟨hbounded, hall⟩ := hfollows.counted htp (State.eraseJob_units hlength buf hchecks)
  exact ⟨t, hexec, hbounded, hall, fun a ha _ hb => hfollows.read_of_erased rfl ha hb,
    fun a hb => hfollows.read_of_not_erased rfl hb⟩

/-- A WRITE to erased pages that passes its checks, however it ends. -/
theorem State.Protocol.exec_write (hs : s.Protocol) (hp : s.eng.pc = .idle) (hclear : s.eng.maybeBusy = false)
    (hlength : 0 < length) {h : Nat} {b : List Byte} (hget : s.host.bufs[h]? = some b) (hsize : b.length = length)
    (hchecks : writeChecks s.cfg offset length = true) (hbp : s.dev.bp = 0x00)
    (hblank : ∀ a, offset ≤ a → a < offset + length → s.dev.array.read a = 0xFF) :
    ∃ t, Machine.exec (.write offset length (some h)) s = .next t ∧
      t.eng.unit ≤ length / s.cfg.pageSize ∧ (t.eng.result = .ok ↔ t.eng.unit = length / s.cfg.pageSize) ∧
      (∀ i (hi : i < b.length), i < t.eng.unit * s.cfg.pageSize → t.dev.array.read (offset + i) = b[i]) ∧
      (∀ i, (t.eng.unit + 1) * s.cfg.pageSize ≤ i →
        t.dev.array.read (offset + i) = s.dev.array.read (offset + i)) := by
  have hne : hostWrite ≠ hostErase ∧ hostWrite ≠ hostRead := by decide
  have hJ : (s.job ⟨hostWrite, offset, length, some h⟩ fun a => b.getD (a - offset) 0).Sound :=
    ⟨regular_of_valid hs.config, hlength, fun h => absurd h hne.1, fun h => absurd h hne.2, fun _ => hblank⟩
  have hpage := hJ.regular.pageSize_pos
  obtain ⟨hoffset, -⟩ := alignedTo_iff.1 (Bool.and_eq_true_iff.1 hchecks).2
  have hdiv (i : Nat) : (offset + i) / s.cfg.pageSize = offset / s.cfg.pageSize + i / s.cfg.pageSize :=
    Nat.add_div_of_dvd_right hoffset
  obtain ⟨t, hexec, hfollows, htp, -⟩ := hs.exists_exec_follows (i := .write offset length (some h)) hp hclear rfl
    hchecks hJ (fun _ => hbp) fun _ => ⟨b, by simpa [State.buffer] using hget, hsize, fun i _ hi => by
      simp [State.job, List.getD, List.getElem?_eq_getElem (show i < b.length by rw [hsize]; exact hi)]⟩
  obtain ⟨hbounded, hall⟩ := hfollows.counted htp rfl
  refine ⟨t, hexec, hbounded, hall, fun i hi hb => ?_, fun i hb => hfollows.read_of_not_written rfl ?_⟩
  · rw [hfollows.read_of_written rfl (Nat.le_add_right offset i)]
    · simp [State.job, List.getD, hi]
    · rw [State.job, hdiv]
      exact Nat.add_lt_add_left (Nat.div_lt_of_lt_mul (by rwa [mul_comm] at hb)) _
  · rw [State.job, hdiv]
    exact Nat.add_lt_add_left ((Nat.le_div_iff_mul_le hpage).2 hb) _

/-- A READ that passes its checks, however it ends. -/
theorem State.Protocol.exec_read (hs : s.Protocol) (hp : s.eng.pc = .idle) (hclear : s.eng.maybeBusy = false)
    (hlength : 0 < length) {h : Nat} {b : List Byte} (hget : s.host.bufs[h]? = some b) (hsize : b.length = length)
    (hchecks : readChecks s.cfg offset length = true) :
    ∃ t out, Machine.exec (.read offset length (some h)) s = .next t ∧ t.host.bufs[h]? = some out ∧
      out.length = length ∧ t.eng.unit ≤ spannedPages s.cfg offset length ∧
      (t.eng.result = .ok ↔ t.eng.unit = spannedPages s.cfg offset length) ∧
      (∀ i < length, offset + i < (offset / s.cfg.pageSize + t.eng.unit) * s.cfg.pageSize →
        out[i]? = some (s.dev.array.read (offset + i))) := by
  have hne : hostRead ≠ hostErase ∧ hostRead ≠ hostWrite := by decide
  have hJ : (s.job ⟨hostRead, offset, length, some h⟩ s.dev.array.read).Sound :=
    ⟨regular_of_valid hs.config, hlength, fun h => absurd h hne.1, fun _ _ => rfl, fun h => absurd h hne.2⟩
  obtain ⟨t, hexec, hfollows, htp, hbuf⟩ := hs.exists_exec_follows (i := .read offset length (some h)) hp hclear rfl
    hchecks hJ (fun hr => absurd rfl hr) fun _ => ⟨b, by simpa [State.buffer] using hget, hsize, fun i hi => by
      have hzero : offset / s.cfg.pageSize * s.cfg.pageSize ≤ offset := Nat.div_mul_le_self _ _
      simp [Job.reach, State.job, Job.page, unitPage] at hi
      omega⟩
  obtain ⟨hbounded, hall⟩ := hfollows.counted htp rfl
  obtain ⟨out, hout, hlen, hholds⟩ := hfollows.tracks.buffer (.inl rfl)
  refine ⟨t, out, hexec, by simpa [State.buffer, hbuf] using hout, hlen, hbounded, hall, fun i hi hb => hholds i ?_ hi⟩
  simpa [Job.reach, State.job, Job.page, unitPage] using Nat.lt_sub_of_add_lt (add_comm offset i ▸ hb)

end

/-- Settles O57: the run of each operation is followed from its first unit, and what stands is read at its response. -/
theorem completedUnitsStand : Obligations.CompletedUnitsStand :=
  fun _ _ _ hs hp hclear hlength => ⟨fun buf hchecks hbp => hs.exec_erase hp hclear hlength buf hchecks hbp,
    fun _ _ hget hsize => ⟨hs.exec_write hp hclear hlength hget hsize, hs.exec_read hp hclear hlength hget hsize⟩⟩

end Sys2Proof.Machine
end

/-! ### Frames that are answered and commands that succeed

What the premise `State.Smooth` of a plain run gives for each frame of the engine. -/

section
namespace Sys2Proof.Machine

/-- The draws that a plain run counts on. -/
def Draws.lists (d : Draws) : List TransportAnswer × List Bool × List Bool := (d.transport, d.completes, d.succeeds)

section
variable {s t : State} {frames commands : Nat}

/-- No command but the status read of 0xC0 takes a completion or its success from the draws (R80). -/
theorem deviceOf_draws (rx : Nat) {i : Instr} (hi : i ≠ .rdsr statusReg) (s : State) :
    (deviceOf rx i s).2.draws.lists = s.draws.lists := by
  have hcheck : s.devCheck.draws = s.draws := by unfold State.devCheck; split <;> rfl
  have hanswer (u : State) (b : List Byte) (hu : u.draws.lists = s.draws.lists) :
      (u.answer b).2.draws.lists = s.draws.lists := by
    unfold State.answer
    split
    · exact hu
    · exact hu
  have hdone : s.devCheck.draws.lists = s.draws.lists := by rw [hcheck]
  cases i with
  | rdid dummy n => simp only [deviceOf, devRdid]; split <;> exact hdone
  | rdsr reg =>
    have hreg : reg ≠ statusReg := fun h => hi (by rw [h])
    simp only [deviceOf, devRdsr, if_neg hreg]
    split
    · exact hanswer s _ rfl
    · rfl
  | wrsr reg value => simp only [deviceOf, devWrsr]; split <;> exact hdone
  | wren | wrdi | geometry | erase | read | write => exact hdone
  | prdc page => simp only [deviceOf, devPrdc]; split <;> exact hdone
  | rdc col n =>
    simp only [deviceOf, devRdc]
    split
    · exact hdone
    · exact hanswer _ _ hdone
  | pld col data => simp only [deviceOf, devPld]; split <;> exact hdone
  | pex page => simp only [deviceOf, devPex]; split <;> exact hdone
  | bers page => simp only [deviceOf, devBers]; split <;> exact hdone

namespace State.Smooth

theorem of_draws (h : s.Smooth frames commands) (ht : t.draws = s.draws) : t.Smooth frames commands :=
  ⟨ht ▸ h.transport, ht ▸ h.completes, ht ▸ h.succeeds⟩

theorem transportNow (h : s.Smooth (frames + 1) commands) : s.draws.transportNow = .answered := by
  simp [Draws.transportNow, List.headD_eq_head?_getD, List.head?_eq_getElem?, h.transport 0 (Nat.succ_pos _)]

/-- A frame takes one answer of the transport. -/
theorem past_frame (h : s.Smooth (frames + 1) commands)
    (ht : t.draws.lists = s.draws.pastTransport.lists) : t.Smooth frames commands := by
  obtain ⟨htransport, hcompletes, hsucceeds⟩ := by simpa only [Draws.lists, Prod.mk.injEq] using ht
  refine ⟨fun k hk => ?_, hcompletes ▸ h.completes, hsucceeds ▸ h.succeeds⟩
  rw [htransport]
  exact List.getElem?_tail.trans (h.transport (k + 1) (Nat.succ_lt_succ hk))

/-- A completed erase takes a completion and its success as well. -/
theorem past_command (h : s.Smooth (frames + 1) (commands + 1))
    (ht : t.draws.lists = s.draws.pastTransport.pastCompletes.pastSucceeds.lists) : t.Smooth frames commands := by
  obtain ⟨htransport, hcompletes, hsucceeds⟩ := by simpa only [Draws.lists, Prod.mk.injEq] using ht
  refine ⟨fun k hk => ?_, fun k hk => ?_, fun k hk => ?_⟩
  · rw [htransport]
    exact List.getElem?_tail.trans (h.transport (k + 1) (Nat.succ_lt_succ hk))
  · rw [hcompletes]
    exact List.getElem?_tail.trans (h.completes (k + 1) (Nat.succ_lt_succ hk))
  · rw [hsucceeds]
    exact List.getElem?_tail.trans (h.succeeds (k + 1) (Nat.succ_lt_succ hk))

end State.Smooth

/-- The state in which a frame of the engine that the transport answers reaches the device. -/
def State.carrying (s : State) (tx : List Byte) (rx : Nat) : State :=
  { s with trace := s.trace ++ [.frame tx rx], draws := s.draws.pastTransport }

theorem State.send_of_answered {tx : List Byte} {rx : Nat} (h : s.draws.transportNow = .answered) :
    s.send tx rx =
      let r := deviceReceives ⟨tx, rx⟩ (s.carrying tx rx)
      { r.2 with reply := .data r.1 } :=
  State.transact_answered (s := { s with trace := s.trace ++ [.frame tx rx] }) h

/-- A frame other than the status read is answered. -/
theorem State.send_smooth {tx : List Byte} {rx : Nat} {i : Instr} (h : s.Smooth (frames + 1) commands)
    (hframe : deviceReceives ⟨tx, rx⟩ = deviceOf rx i) (hi : i ≠ .rdsr statusReg) :
    (∃ d, (s.send tx rx).reply = .data d) ∧ (s.send tx rx).Smooth frames commands := by
  rw [State.send_of_answered h.transportNow, hframe]
  exact ⟨⟨_, rfl⟩, h.past_frame (deviceOf_draws rx hi _)⟩

/-- A frame of a unit that is answered moves the sequencer on. -/
theorem State.unitFrame_smooth {tx : List Byte} {next : Pc} {i : Instr} (h : s.Smooth (frames + 1) commands)
    (hframe : deviceReceives ⟨tx, 0⟩ = deviceOf 0 i) (hi : i ≠ .rdsr statusReg) :
    (s.send tx 0).Smooth frames commands ∧ s.unitFrame tx next = (s.send tx 0).goto next := by
  obtain ⟨⟨d, hd⟩, hsmooth⟩ := State.send_smooth h hframe hi
  exact ⟨hsmooth, by simp only [State.unitFrame, hd]⟩

/-- A status byte of an idle device whose erase did not fail settles the unit (R35, R172). -/
theorem statusByte_settled {d : Device} (any : Byte) (hidle : d.pending = none) (hefail : d.efail = false) :
    busyBit (statusByte d any) = false ∧ statusByte d any &&& efailMask = 0 := by
  obtain ⟨hbusy, hbit, -⟩ := statusByte_bits d any
  refine ⟨hbusy.trans (by simp [Device.busy, hidle]), ?_⟩
  have hmask : efailMask = BitVec.twoPow 8 2 := rfl
  rw [hmask, BitVec.and_twoPow, hbit, hefail]
  rfl

/-- A completing erase takes one success from the draws. -/
theorem State.complete_erase_draws {page : Nat} (hp : s.dev.pending = some (.erase page)) :
    s.complete.draws.lists = s.draws.pastSucceeds.lists := by
  simp only [State.complete, hp, State.completeErase, State.spoilCache_draws, State.eraseArray]
  split <;> rfl

/-- A status read at which a pending erase completes with success: its draws, and its byte. -/
theorem devRdsr_of_erased {page : Nat} (hp : s.dev.pending = some (.erase page)) (hfault : s.dev.dfault = false)
    (hcompletes : s.draws.completes.head? = some true) (hsucceeds : s.draws.succeeds.head? = some true) :
    (devRdsr statusReg s).2.draws.lists = s.draws.pastCompletes.pastSucceeds.lists ∧
      ∃ b, (devRdsr statusReg s).1 = [b] ∧ busyBit b = false ∧ b &&& efailMask = 0 := by
  obtain ⟨u, hu⟩ : ∃ u : State, u = { s with draws := s.draws.pastCompletes } := ⟨_, rfl⟩
  have hpending : u.dev.pending = some (.erase page) := hu ▸ hp
  have hdraws : u.draws = s.draws.pastCompletes := hu ▸ rfl
  have hefail : u.complete.dev.efail = false := by
    rw [(State.complete_erase hpending).1, hdraws]
    simp [Draws.succeedsNow_of_head (d := s.draws.pastCompletes) hsucceeds]
  rw [devRdsr_of_noFault hfault, State.maybeComplete_of_completing hp hcompletes, ← hu]
  exact ⟨(State.complete_erase_draws hpending).trans (by rw [hdraws]), _, rfl,
    statusByte_settled _ (State.complete_completed u hpending).idle hefail⟩

/-- The engine's status read at which a pending erase completes with success. -/
theorem State.send_status_smooth {page : Nat} (h : s.Smooth (frames + 1) (commands + 1))
    (hp : s.dev.pending = some (.erase page)) (hfault : s.dev.dfault = false) :
    let t := s.send [opcRdsr, statusReg] 1
    t.Smooth frames commands ∧ ∃ b, t.reply = .data [b] ∧ busyBit b = false ∧ b &&& efailMask = 0 := by
  have hcompletes : s.draws.completes.head? = some true :=
    List.head?_eq_getElem?.trans (h.completes 0 (Nat.succ_pos _))
  have hsucceeds : s.draws.succeeds.head? = some true :=
    List.head?_eq_getElem?.trans (h.succeeds 0 (Nat.succ_pos _))
  obtain ⟨hlists, b, hb, hsettled⟩ :=
    devRdsr_of_erased (s := s.carrying [opcRdsr, statusReg] 1) hp hfault hcompletes hsucceeds
  rw [State.send_of_answered h.transportNow, deviceReceives_rdsr]
  exact ⟨h.past_command hlists, b, congrArg Reply.data hb, hsettled⟩

end

end Sys2Proof.Machine
end

/-! ### An ERASE whose commands succeed at their first status read -/

section
namespace Sys2Proof.Machine

/-- The frames of erase unit `k` whose first status read settles it (R222). -/
def Job.eraseFrames (J : Job) (k : Nat) : List Frame :=
  [⟨[opcWren], 0⟩, ⟨pageFrame opcBers (J.page k), 0⟩, ⟨[opcRdsr, statusReg], 1⟩]

/-- The frames of the units before unit `k`. -/
def Job.framesBefore (J : Job) (k : Nat) : List Frame := (List.range k).flatMap J.eraseFrames

/-- Where a plain ERASE stands: the frames it has sent, and how many frames and commands are to come, `r` units after
the one in progress. -/
inductive Job.Erasing (J : Job) (e : Engine) (answer : Option Response) : List Frame → Nat → Nat → Prop
  | boundary (r : Nat) (left : e.unit + (r + 1) = J.units) (pc : e.pc = .eUnit) :
    Erasing J e answer (J.framesBefore e.unit) (3 * r + 3) (r + 1)
  | enabled (r : Nat) (left : e.unit + (r + 1) = J.units) (pc : e.pc = .eWel) :
    Erasing J e answer (J.framesBefore e.unit ++ [⟨[opcWren], 0⟩]) (3 * r + 2) (r + 1)
  | begun (r : Nat) (left : e.unit + (r + 1) = J.units) (pc : e.pc = .eCmd) :
    Erasing J e answer (J.framesBefore e.unit ++ [⟨[opcWren], 0⟩] ++ [⟨pageFrame opcBers (J.page e.unit), 0⟩])
      (3 * r + 1) (r + 1)
  | polled (r : Nat) (left : e.unit + (r + 1) = J.units) (pc : e.pc = .eBusy) (idle : busyBit e.status = false)
      (ok : e.status &&& e.mask = 0) : Erasing J e answer (J.framesBefore (e.unit + 1)) (3 * r) r
  | counted (r : Nat) (left : e.unit + r = J.units) (pc : e.pc = .eReady) :
    Erasing J e answer (J.framesBefore e.unit) (3 * r) r
  | finished (pc : e.pc = .respond) (result : e.result = .ok) (count : e.count = 0) :
    Erasing J e answer (J.framesBefore J.units) 0 0
  | answered (pc : e.pc.ready = true) (result : e.result = .ok) (response : answer = some ⟨.ok, 0, none⟩) :
    Erasing J e answer (J.framesBefore J.units) 0 0

/-- A request has sent these frames, knows of no busy device, and so many more frames and commands succeed. -/
structure State.Ran (s : State) (sent : List Frame) (frames commands : Nat) : Prop where
  sent : framesOf s.trace = sent
  draws : s.Smooth frames commands
  clear : s.eng.maybeBusy = false

/-- An ERASE that runs plainly. -/
def State.ErasesPlainly (s : State) (J : Job) : Prop :=
  ∃ sent frames commands, J.Erasing s.eng s.host.response sent frames commands ∧ s.Ran sent frames commands

section
variable {s t u : State} {J : Job} {sent : List Frame} {frames commands : Nat}

theorem Job.framesBefore_succ (k : Nat) : J.framesBefore (k + 1) =
    J.framesBefore k ++ [⟨[opcWren], 0⟩] ++ [⟨pageFrame opcBers (J.page k), 0⟩] ++ [⟨[opcRdsr, statusReg], 1⟩] := by
  simp [framesBefore, List.range_succ, eraseFrames]

namespace State.Ran

theorem congr (h : s.Ran sent frames commands) (htrace : t.trace = s.trace) (hdraws : t.draws = s.draws)
    (hclear : t.eng.maybeBusy = s.eng.maybeBusy) : t.Ran sent frames commands :=
  ⟨htrace ▸ h.sent, h.draws.of_draws hdraws, hclear.trans h.clear⟩

/-- A frame of a unit. -/
theorem unitFrame {tx : List Byte} {next : Pc} {i : Instr} (h : s.Ran sent (frames + 1) commands)
    (hframe : deviceReceives ⟨tx, 0⟩ = deviceOf 0 i) (hi : i ≠ .rdsr statusReg) :
    (s.unitFrame tx next).Ran (sent ++ [⟨tx, 0⟩]) frames commands ∧
      (s.unitFrame tx next).eng = { s.eng with pc := next } := by
  obtain ⟨hsmooth, hgoto⟩ := State.unitFrame_smooth (next := next) h.draws hframe hi
  rw [hgoto]
  refine ⟨congr ⟨?_, hsmooth, ?_⟩ rfl rfl rfl, by simp⟩
  · simp [framesOf, ← h.sent]
  · simpa using h.clear

/-- The status read of an erase unit, at which its command completes with success. -/
theorem pollUnit {page : Nat} {polling : Pc} (h : s.Ran sent (frames + 1) (commands + 1))
    (hp : s.dev.pending = some (.erase page)) (hfault : s.dev.dfault = false) :
    (s.pollUnit polling).Ran (sent ++ [⟨[opcRdsr, statusReg], 1⟩]) frames commands ∧
      ∃ b, (s.pollUnit polling).eng = { s.eng with status := b, polls := s.eng.polls + 1, pc := polling } ∧
        busyBit b = false ∧ b &&& efailMask = 0 := by
  obtain ⟨hsmooth, b, hreply, hsettled⟩ := State.send_status_smooth h.draws hp hfault
  have hpoll : s.pollUnit polling = { s.send [opcRdsr, statusReg] 1 with
      eng := { s.eng with status := b, polls := s.eng.polls + 1, pc := polling } } := by
    simp [State.pollUnit, State.poll, hreply]
  rw [hpoll]
  exact ⟨⟨by simp [framesOf, ← h.sent], hsmooth.of_draws rfl, h.clear⟩, b, rfl, hsettled⟩

/-- The test of the unit loop: the next unit, or the end with count 0. -/
theorem loopTest (r : Nat) (h : u.Ran (J.framesBefore u.eng.unit) (3 * r) r) (hop : u.eng.op = hostErase)
    (hleft : u.eng.unit + r = J.units) (hnunits : u.eng.nunits = J.units) (hresult : u.eng.result = .ok) :
    u.loopTest.ErasesPlainly J := by
  cases r with
  | zero =>
    have hend : u.loopTest = u.finish 0 := by simp [State.loopTest, hnunits, ← hleft, successCount, hop]
    have hall : u.eng.unit = J.units := hleft
    rw [hend]
    exact ⟨_, _, _, .finished rfl hresult rfl, (hall ▸ h).congr rfl rfl rfl⟩
  | succ r =>
    have hgo : u.loopTest = u.goto .eUnit := by
      have hlt : u.eng.unit < u.eng.nunits := by omega
      simp [State.loopTest, hlt, unitBoundaryOf, hop]
    rw [hgo]
    exact ⟨_, _, _, .boundary r hleft rfl, h.congr rfl rfl rfl⟩

end State.Ran

/-- Every move of a plain ERASE is the next one of its plan. -/
theorem State.ErasesPlainly.seq (h : s.ErasesPlainly J) (hs : s.Follows J) (hop : J.op = hostErase)
    (hc : s.eng.cancel = false) (hin : s.eng.pc.inFlight = true) (hseq : s.seq = .next t) : t.ErasesPlainly J := by
  have hserves := hs.tracks.serves
  have hphase := hs.tracks.phase
  obtain ⟨sent, frames, commands, hat, hran⟩ := h
  cases hat with
  | boundary r left pc =>
    rw [State.seq_of_eUnit pc hc] at hseq
    cases hseq
    obtain ⟨hran, heng⟩ := (hran.congr (t := s.atUnitPage) rfl rfl rfl).unitFrame (next := .eWel) (i := .wren)
      deviceReceives_wren nofun
    refine ⟨_, _, _, ?_, hran⟩
    rw [heng]
    exact .enabled r left rfl
  | enabled r left pc =>
    rw [State.seq_of_eWel pc] at hseq
    cases hseq
    obtain ⟨hran, heng⟩ := hran.unitFrame (next := .eCmd) (i := .bers (field16 s.eng.page))
      (deviceReceives_bers s.eng.page) nofun
    refine ⟨_, _, _, ?_, hran⟩
    rw [heng, hs.page_eq (by rw [pc]; decide)]
    exact .begun r left rfl
  | begun r left pc =>
    have hpending : s.dev.pending = some (.erase (J.page s.eng.unit)) := by
      have hunder : J.Underway s.eng.unit s.dev := by simpa [State.InPhase, pc] using hphase
      rw [hunder.pending, Job.command_of_erase hop]
    have hmove : s.seq = .next ((s.startAwait efailMask).pollUnit .eBusy) := by simp [State.seq, pc, State.seqECmd]
    rw [hmove] at hseq
    cases hseq
    obtain ⟨hran, b, heng, hidle, hok⟩ := (hran.congr (t := s.startAwait efailMask) rfl rfl rfl).pollUnit
      (polling := .eBusy) hpending hs.protocol.noFault
    refine ⟨_, _, _, ?_, hran⟩
    rw [heng, ← Job.framesBefore_succ]
    exact .polled r left rfl hidle hok
  | polled _ left pc idle ok =>
    have hmove : s.seq = .next (s.unitReady .eReady) := by
      simp only [State.seq, pc, State.seqEBusy, State.seqBusy_of_settled idle ok]
    rw [hmove] at hseq
    cases hseq
    exact ⟨_, _, _, .counted _ (by simp only [State.unitReady_eng]; omega) rfl, hran.congr rfl rfl rfl⟩
  | counted _ left pc =>
    have hmove : s.seq = .next s.loopTest := by simp only [State.seq, pc]
    rw [hmove] at hseq
    cases hseq
    exact hran.loopTest _ (hserves.op.trans hop) left hserves.nunits (hs.tracks.going (by rw [pc]; decide))
  | finished pc result count =>
    have hmove : s.seq = .next s.respond := by simp only [State.seq, pc]
    rw [hmove] at hseq
    cases hseq
    refine ⟨_, _, _, .answered ?_ result ?_, hran.congr rfl rfl rfl⟩
    · rcases s.respond_pc with he | he <;> rw [he] <;> rfl
    · simp [State.responseRecord, result, count, hserves.op.trans hop, hostErase, hostGeometry]
  | answered pc => rw [Pc.not_inFlight_of_ready pc] at hin; cases hin

/-- Without a move of the host a transition is a move of the sequencer. -/
theorem State.ErasesPlainly.transition (h : s.ErasesPlainly J) (hs : s.Follows J) (hu : s.Undisturbed)
    (hop : J.op = hostErase) (hin : s.eng.pc.inFlight = true) (hmove : s.transition = .next t) :
    t.ErasesPlainly J := by
  obtain ⟨sent, frames, commands, hat, hran⟩ := h
  have hcancel : s.takeMove.eng.cancel = false := by
    simp [hu.cancel, State.head_move_ne hu.moves (m := .cancel) (by decide)]
  have heng : s.takeMove.eng = s.eng := by
    calc s.takeMove.eng = { s.eng with cancel := s.takeMove.eng.cancel } := rfl
      _ = s.eng := by rw [hcancel.trans hu.cancel.symm]
  have htaken : s.takeMove.ErasesPlainly J := ⟨sent, frames, commands, heng ▸ hat, hran.congr rfl rfl rfl⟩
  exact htaken.seq hs.takeMove hop hcancel hin (hs.protocol.transition_eq ▸ hmove)

/-- A plain ERASE runs plainly to its response. -/
theorem State.ErasesPlainly.runRequest (h : s.ErasesPlainly J) (hs : s.Follows J) (hu : s.Undisturbed)
    (hop : J.op = hostErase) (hrun : s.runRequest = .next t) : t.ErasesPlainly J := by
  revert h hs hu
  exact runInFlight_induction
    (R := fun u v => u.ErasesPlainly J → u.Follows J → u.Undisturbed → v.ErasesPlainly J) (fun _ h _ _ => h)
    (fun u v w hin hmove hrest h hs hu =>
      hrest (h.transition hs hu hop hin hmove) (hs.transition hin hmove) (hu.transition hmove)) hrun

/-- What a plain ERASE has sent and answers. -/
theorem State.ErasesPlainly.answer (h : s.ErasesPlainly J) (hp : s.eng.pc.ready = true) :
    s.eng.result = .ok ∧ s.host.response = some ⟨.ok, 0, none⟩ ∧ framesOf s.trace = J.framesBefore J.units ∧
      s.eng.maybeBusy = false := by
  obtain ⟨sent, frames, commands, hat, hsent, -, hclear⟩ := h
  cases hat with
  | answered _ result response => exact ⟨result, response, hsent, hclear⟩
  | boundary _ _ pc | enabled _ _ pc | begun _ _ pc | polled _ _ pc | counted _ _ pc | finished pc =>
    rw [pc] at hp
    cases hp

end

section
variable {s t : State} {offset length : Nat} {buf : Option Nat}

/-- Behind an ERASE that counted all its units the range is erased: it consists of whole blocks (R194). -/
theorem State.Follows.read_of_all_erased {J : Job} (h : t.Follows J) (hop : J.op = hostErase)
    (haligned : alignedTo J.cfg.blockSize J.offset J.length = true)
    (hall : t.eng.unit = J.length / J.cfg.pageSize) {a : Nat} (hlo : J.offset ≤ a) (hhi : a < J.offset + J.length) :
    t.dev.array.read a = erasedByte := by
  obtain ⟨hoffset, hlength⟩ := alignedTo_iff.1 haligned
  have hpages : J.cfg.pageSize ∣ J.offset := (Dvd.intro J.cfg.pagesPerBlock rfl : J.cfg.pageSize ∣ _).trans hoffset
  refine h.read_of_erased hop hlo ?_
  calc a / J.cfg.blockSize
      < (J.offset + J.length) / J.cfg.blockSize := Nat.div_lt_div_of_lt_of_dvd (Nat.dvd_add hoffset hlength) hhi
    _ = (J.offset + J.length) / J.cfg.pageSize / J.cfg.pagesPerBlock := (Nat.div_div_eq_div_mul _ _ _).symm
    _ = J.page t.eng.unit / J.cfg.pagesPerBlock := by
        rw [hall, Job.page, unitPage, Nat.add_div_of_dvd_right hpages]

/-- An ERASE that passes its checks, with nothing in its way, begins plainly. -/
theorem State.erasesPlainly_firstUnit (hclear : s.eng.maybeBusy = false)
    (hsmooth : s.Smooth (3 * (s.eraseJob offset length buf).units) (s.eraseJob offset length buf).units) :
    (s.accept ⟨hostErase, offset, length, buf⟩).withPlan.firstUnit.ErasesPlainly (s.eraseJob offset length buf) :=
  State.Ran.loopTest _ ⟨rfl, hsmooth.of_draws rfl, hclear⟩ rfl (Nat.zero_add _) rfl rfl

/-- An ERASE that passes its checks, with nothing in its way, runs plainly to its response. -/
theorem State.Protocol.exec_erase_plainly (hs : s.Protocol) (hp : s.eng.pc = .idle) (hclear : s.eng.maybeBusy = false)
    (hbp : s.dev.bp = 0x00) (hmoves : ∀ m ∈ s.host.moves, m = .quiet)
    (hchecks : eraseChecks s.cfg offset length = true) (hlength : 0 < length)
    (hsmooth : s.Smooth (3 * (length / s.cfg.pageSize)) (length / s.cfg.pageSize)) :
    ∃ t, Machine.exec (.erase offset length buf) s = .next t ∧ t.eng.pc = .idle ∧
      t.Follows (s.eraseJob offset length buf) ∧ t.ErasesPlainly (s.eraseJob offset length buf) := by
  have hsound := hs.eraseJob_sound (offset := offset) hlength buf
  have hunits := State.eraseJob_units hlength buf hchecks
  obtain ⟨t, hexec, hfollows, htp, -⟩ := hs.exists_exec_follows (i := .erase offset length buf) hp hclear rfl hchecks
    hsound (fun _ => hbp) fun h => absurd h hostErase_not_buffered
  obtain ⟨hdispatch, hbegins⟩ := hs.follows_dispatch (r := ⟨hostErase, offset, length, buf⟩) hp hclear hchecks hsound
    (fun _ => hbp) fun h => absurd h hostErase_not_buffered
  have hplain := State.erasesPlainly_firstUnit (offset := offset) (length := length) (buf := buf) hclear
    (by rwa [hunits])
  have hundisturbed := (s.accept ⟨hostErase, offset, length, buf⟩).dispatch_begins.undisturbed ⟨hmoves, rfl, nofun⟩
  have hrun := runRequest_of_exec (i := .erase offset length buf) rfl (by rw [hp]; rfl) hexec
  rw [← hdispatch] at hplain
  exact ⟨t, hexec, htp, hfollows, hplain.runRequest hbegins hundisturbed rfl hrun⟩

end

/-- Settles O58: every move of the run is the next one of the plan, and all units stand at its response. -/
theorem eraseErasesItsRange : Obligations.EraseErasesItsRange := by
  intro s offset length buf hs hp hclear hbp hmoves hchecks hlength hsmooth
  have hready : s.eng.pc.ready = true := by rw [hp]; rfl
  have haligned : alignedTo s.cfg.blockSize offset length = true := (Bool.and_eq_true_iff.1 hchecks).2
  have hunits := State.eraseJob_units hlength buf hchecks
  obtain ⟨t, hexec, htp, hfollows, hplain⟩ :=
    hs.exec_erase_plainly (buf := buf) hp hclear hbp hmoves hchecks hlength hsmooth
  obtain ⟨hresult, hresponse, hsent, htclear⟩ := hplain.answer (by rw [htp]; rfl)
  have hall := (hfollows.counted htp hunits).2.1 hresult
  have hbufs := (State.buffers_of_order (order_of_exec rfl hready hs.noReset hexec) (.inl rfl)).1
  rw [hunits] at hsent
  refine ⟨t, hexec, hresponse, fun a hlo hhi => hfollows.read_of_all_erased rfl haligned hall hlo hhi, fun a ha => ?_,
    hsent, htp, htclear, hfollows.protocol.noFault, hbufs⟩
  refine hfollows.confined.device.outside a fun hin => ha ?_
  rw [State.Addresses, hfollows.tracks.serves.offset, hfollows.tracks.serves.length] at hin
  exact hin

end Sys2Proof.Machine
end

/-! ### The frames of a program unit -/

section
namespace Sys2Proof.Machine

/-- The page of the unit at hand is written to PAGE, and the place of its chunk in the buffer to DST (R199, R242). -/
def State.atProgramUnit (s : State) : State :=
  { s with eng := { s.eng with
      page := unitPage s.cfg s.eng.offset s.eng.unit
      dst := s.eng.unit * s.cfg.pageSize } }

section
variable {s : State}

/-- A program unit that is not cancelled begins with WREN (R242, R352). -/
theorem State.seq_of_pUnit (hp : s.eng.pc = .pUnit) (hc : s.eng.cancel = false) :
    s.seq = .next (s.atProgramUnit.unitFrame [opcWren] .pWel) := by
  simp [State.seq, hp, State.seqPUnit, hc, State.atProgramUnit]

/-- Behind WREN it sends PLD with the bytes it reads from the buffer at DST (R242). -/
theorem State.seq_of_pWel (hp : s.eng.pc = .pWel) {d : List Byte} (hd : s.memRead s.eng.dst s.cfg.pageSize = some d) :
    s.seq = .next (s.unitFrame (opcPld :: 0x00 :: 0x00 :: d) .pLoaded) := by
  simp only [State.seq, hp, State.seqPWel, hd]

/-- Behind PLD it sends PEX with PAGE (R242). -/
theorem State.seq_of_pLoaded (hp : s.eng.pc = .pLoaded) :
    s.seq = .next (s.unitFrame (pageFrame opcPex s.eng.page) .pCmd) := by
  simp only [State.seq, hp, State.seqPLoaded]

/-- A read inside the buffer that BUF names gives the buffer's own bytes (R14). -/
theorem State.memRead_eq_of_le {h i n : Nat} {b : List Byte} (hbuf : s.eng.buf = some h)
    (hget : s.host.bufs[h]? = some b) (hle : i + n ≤ b.length) : s.memRead i n = some ((b.drop i).take n) := by
  simp [State.memRead, State.buffer, hbuf, hget, hle]

end

/-- Settles O39: each of the three moves is one frame of the unit. -/
theorem programUnitSendsWrenPldPex : Obligations.ProgramUnitSendsWrenPldPex := by
  intro s
  refine ⟨fun hp hc => ?_, fun h b hp hbuf hget hle => ?_, fun hp => ?_⟩
  · obtain ⟨htrace, hanswer, -⟩ := s.atProgramUnit.unitFrame_spec [opcWren] .pWel
    have hregisters : (s.atProgramUnit.unitFrame [opcWren] .pWel).eng.page = unitPage s.cfg s.eng.offset s.eng.unit ∧
        (s.atProgramUnit.unitFrame [opcWren] .pWel).eng.dst = s.eng.unit * s.cfg.pageSize := by
      rcases s.atProgramUnit.unitFrame_eng_cases [opcWren] .pWel with heng | heng <;> rw [heng] <;> exact ⟨rfl, rfl⟩
    exact ⟨_, State.seq_of_pUnit hp hc, htrace, hregisters.1, hregisters.2, fun hr => by rw [hanswer hr],
      State.unitFrame_ends _ _ _⟩
  · obtain ⟨htrace, hanswer, -⟩ :=
      s.unitFrame_spec (opcPld :: 0x00 :: 0x00 :: (b.drop s.eng.dst).take s.cfg.pageSize) .pLoaded
    exact ⟨_, State.seq_of_pWel hp (State.memRead_eq_of_le hbuf hget hle), htrace, hanswer,
      State.unitFrame_ends _ _ _⟩
  · obtain ⟨htrace, hanswer, -⟩ := s.unitFrame_spec (pageFrame opcPex s.eng.page) .pCmd
    refine ⟨_, State.seq_of_pLoaded hp, ?_, hanswer, State.unitFrame_ends _ _ _⟩
    rw [htrace, pageFrame_eq_ofNat]
    rfl

end Sys2Proof.Machine
end

/-! ### Requests that run by a plan

The one induction behind a plain run: a plan that every move of the sequencer keeps holds at the response. -/

section
namespace Sys2Proof.Machine

/-- A plan of a request: what it has sent where its registers and its answer stand so, and how many frames and commands
are to come. -/
abbrev Plan := Engine → Option Response → List Frame → Nat → Nat → Prop

/-- The request runs by the plan: it stands at a place of it, and has sent what the plan says. -/
def State.OnPlan (s : State) (P : Plan) : Prop :=
  ∃ sent frames commands, P s.eng s.host.response sent frames commands ∧ s.Ran sent frames commands

/-- Every move of the job that nobody cancels is the next one of the plan. -/
def Job.Executes (J : Job) (P : Plan) : Prop :=
  ∀ s t : State, s.OnPlan P → s.Follows J → s.eng.cancel = false → s.eng.pc.inFlight = true → s.seq = .next t →
    t.OnPlan P

section
variable {s t : State} {J : Job} {P : Plan}

/-- Without a move of the host a transition is a move of the sequencer. -/
theorem State.OnPlan.transition (h : s.OnPlan P) (hkeeps : J.Executes P) (hs : s.Follows J) (hu : s.Undisturbed)
    (hin : s.eng.pc.inFlight = true) (hmove : s.transition = .next t) : t.OnPlan P := by
  obtain ⟨sent, frames, commands, hat, hran⟩ := h
  have hcancel : s.takeMove.eng.cancel = false := by
    simp [hu.cancel, State.head_move_ne hu.moves (m := .cancel) (by decide)]
  have heng : s.takeMove.eng = s.eng := by
    calc s.takeMove.eng = { s.eng with cancel := s.takeMove.eng.cancel } := rfl
      _ = s.eng := by rw [hcancel.trans hu.cancel.symm]
  exact hkeeps s.takeMove t ⟨sent, frames, commands, heng ▸ hat, hran.congr rfl rfl (congrArg Engine.maybeBusy heng)⟩
    hs.takeMove hcancel hin (hs.protocol.transition_eq ▸ hmove)

/-- A request that runs by its plan does so to its response. -/
theorem State.OnPlan.runRequest (h : s.OnPlan P) (hkeeps : J.Executes P) (hs : s.Follows J) (hu : s.Undisturbed)
    (hrun : s.runRequest = .next t) : t.OnPlan P :=
  runInFlight_induction (R := fun u v => u.OnPlan P → u.Follows J → u.Undisturbed → v.OnPlan P) (fun _ h _ _ => h)
    (fun _ _ _ hin hmove hrest h hs hu =>
      hrest (h.transition hkeeps hs hu hin hmove) (hs.transition hin hmove) (hu.transition hmove)) hrun h hs hu

/-- A request that passes its checks, with nothing in its way, runs by a plan on which its first unit stands. -/
theorem State.Protocol.exists_exec_onPlan {i : Instr} {r : Request} {want : Nat → Byte} (hs : s.Protocol)
    (hp : s.eng.pc = .idle) (hclear : s.eng.maybeBusy = false) (hmoves : ∀ m ∈ s.host.moves, m = .quiet)
    (hi : encode i = .request r) (hchecks : (s.accept r).checksPass = true) (hJ : (s.job r want).Sound)
    (hbp : r.op ≠ hostRead → s.dev.bp = 0x00)
    (hbuffer : r.op = hostRead ∨ r.op = hostWrite →
      (s.accept r).BufferHolds (s.job r want) ((s.job r want).reach 0))
    (hkeeps : (s.job r want).Executes P) (hfirst : (s.accept r).withPlan.firstUnit.OnPlan P) :
    ∃ t, Machine.exec i s = .next t ∧ t.eng.pc = .idle ∧ t.Follows (s.job r want) ∧ t.OnPlan P := by
  obtain ⟨t, hexec, hfollows, htp, -⟩ := hs.exists_exec_follows hp hclear hi hchecks hJ hbp hbuffer
  obtain ⟨hdispatch, hbegins⟩ := hs.follows_dispatch hp hclear hchecks hJ hbp hbuffer
  have hundisturbed := (s.accept r).dispatch_begins.undisturbed ⟨hmoves, rfl, nofun⟩
  exact ⟨t, hexec, htp, hfollows, (hdispatch.symm ▸ hfirst).runRequest hkeeps hbegins hundisturbed
    (runRequest_of_exec hi (by rw [hp]; rfl) hexec)⟩

end

/-- A status read at which the pending command completes and leaves no bit under the mask: its draws are those of the
completion, and its byte settles the unit (R140, R172). -/
theorem devRdsr_of_completing {s : State} {p : Pending} {mask : Byte} (hp : s.dev.pending = some p)
    (hfault : s.dev.dfault = false) (hcompletes : s.draws.completes.head? = some true)
    (hmask : ∀ any, statusByte (State.complete { s with draws := s.draws.pastCompletes }).dev any &&& mask = 0) :
    (devRdsr statusReg s).2.draws.lists = (State.complete { s with draws := s.draws.pastCompletes }).draws.lists ∧
      ∃ b, (devRdsr statusReg s).1 = [b] ∧ busyBit b = false ∧ b &&& mask = 0 := by
  have hidle := (State.complete_completed { s with draws := s.draws.pastCompletes } hp).idle
  rw [devRdsr_of_noFault hfault, State.maybeComplete_of_completing hp hcompletes]
  exact ⟨rfl, _, rfl, (statusByte_bits _ _).1.trans (by simp [Device.busy, hidle]), hmask _⟩

/-- A status read of a unit that is answered by one byte, with what it leaves of the draws. -/
theorem State.Ran.pollUnit_of_read {s : State} {sent : List Frame} {frames commands left : Nat} {polling : Pc}
    {b : Byte} (h : s.Ran sent (frames + 1) commands)
    (hread : (devRdsr statusReg (s.carrying [opcRdsr, statusReg] 1)).1 = [b])
    (hsmooth : (devRdsr statusReg (s.carrying [opcRdsr, statusReg] 1)).2.Smooth frames left) :
    (s.pollUnit polling).Ran (sent ++ [⟨[opcRdsr, statusReg], 1⟩]) frames left ∧
      (s.pollUnit polling).eng = { s.eng with status := b, polls := s.eng.polls + 1, pc := polling } := by
  have hsend := State.send_of_answered (tx := [opcRdsr, statusReg]) (rx := 1) h.draws.transportNow
  rw [deviceReceives_rdsr] at hsend
  have hpoll : s.pollUnit polling = { s.send [opcRdsr, statusReg] 1 with
      eng := { s.eng with status := b, polls := s.eng.polls + 1, pc := polling } } := by
    have hreply : (s.send [opcRdsr, statusReg] 1).reply = .data [b] := hsend ▸ congrArg Reply.data hread
    simp [State.pollUnit, State.poll, hreply]
  rw [hpoll]
  exact ⟨⟨by simp [framesOf, ← h.sent], by rw [hsend]; exact hsmooth.of_draws rfl, h.clear⟩, rfl⟩

end Sys2Proof.Machine
end

/-! ### A WRITE whose commands succeed at their first status read -/

section
namespace Sys2Proof.Machine

/-! #### The status read of a program unit -/

section
variable {s : State} {page : Nat}

/-- A program that completes with success takes that success from the draws, and PFAIL stays clear (R140). -/
theorem State.complete_program_succeeds (hp : s.dev.pending = some (.program page))
    (hsucceeds : s.draws.succeeds.head? = some true) :
    s.complete.draws.lists = s.draws.pastSucceeds.lists ∧ s.complete.dev.pfail = false := by
  refine ⟨?_, by rw [(State.complete_program hp).1, Draws.succeedsNow_of_head hsucceeds]; rfl⟩
  simp only [State.complete, hp, State.completeProgram, State.spoilCache_draws, State.programArray]
  split <;> rfl

/-- The status byte of a device whose program did not fail shows no bit under the mask of PFAIL (R35). -/
theorem statusByte_and_pfailMask {d : Device} (any : Byte) (hpfail : d.pfail = false) :
    statusByte d any &&& pfailMask = 0 := by
  have hmask : pfailMask = BitVec.twoPow 8 3 := rfl
  rw [hmask, BitVec.and_twoPow, (statusByte_bits d any).2.2, hpfail]
  rfl

/-- The status read of a program unit, at which its command completes with success. -/
theorem State.Ran.pollProgram {sent : List Frame} {frames commands : Nat} {polling : Pc}
    (h : s.Ran sent (frames + 1) (commands + 1)) (hp : s.dev.pending = some (.program page))
    (hfault : s.dev.dfault = false) :
    (s.pollUnit polling).Ran (sent ++ [⟨[opcRdsr, statusReg], 1⟩]) frames commands ∧
      ∃ b, (s.pollUnit polling).eng = { s.eng with status := b, polls := s.eng.polls + 1, pc := polling } ∧
        busyBit b = false ∧ b &&& pfailMask = 0 := by
  obtain ⟨hdraws, hpfail⟩ := State.complete_program_succeeds
    (s := { s.carrying [opcRdsr, statusReg] 1 with draws := s.draws.pastTransport.pastCompletes }) hp
    (List.head?_eq_getElem?.trans (h.draws.succeeds 0 (Nat.succ_pos _)))
  obtain ⟨hlists, b, hb, hsettled⟩ := devRdsr_of_completing (s := s.carrying [opcRdsr, statusReg] 1) hp hfault
    (List.head?_eq_getElem?.trans (h.draws.completes 0 (Nat.succ_pos _)))
    fun any => statusByte_and_pfailMask any hpfail
  obtain ⟨hran, heng⟩ := h.pollUnit_of_read (polling := polling) hb (h.draws.past_command (hlists.trans hdraws))
  exact ⟨hran, b, heng, hsettled⟩

end

/-! #### The plan of a WRITE -/

/-- The bytes that are wanted for the page of unit `k`. -/
def Job.chunk (J : Job) (k : Nat) : List Byte :=
  (List.range J.cfg.pageSize).map fun i => J.want (pageBase J.cfg (J.page k) + i)

/-- The frames of program unit `k` whose first status read settles it (R242). -/
def Job.programFrames (J : Job) (k : Nat) : List Frame :=
  [⟨[opcWren], 0⟩, ⟨opcPld :: 0x00 :: 0x00 :: J.chunk k, 0⟩, ⟨pageFrame opcPex (J.page k), 0⟩,
    ⟨[opcRdsr, statusReg], 1⟩]

/-- The frames of the program units before unit `k`. -/
def Job.programmedBefore (J : Job) (k : Nat) : List Frame := (List.range k).flatMap J.programFrames

/-- The states of a program unit before its first status read, with how many of its frames it has sent. -/
def programStates : List (Pc × Nat) := [(.pUnit, 0), (.pWel, 1), (.pLoaded, 2), (.pCmd, 3)]

/-- Where a plain WRITE stands, with `r` units after the one in progress. -/
inductive Job.Writing (J : Job) (e : Engine) (answer : Option Response) : List Frame → Nat → Nat → Prop
  | inUnit (r n : Nat) (left : e.unit + (r + 1) = J.units) (place : (e.pc, n) ∈ programStates) :
    Writing J e answer (J.programmedBefore e.unit ++ (J.programFrames e.unit).take n) (4 * r + (4 - n)) (r + 1)
  | polled (r : Nat) (left : e.unit + (r + 1) = J.units) (pc : e.pc = .pBusy) (idle : busyBit e.status = false)
      (ok : e.status &&& e.mask = 0) : Writing J e answer (J.programmedBefore (e.unit + 1)) (4 * r) r
  | counted (r : Nat) (left : e.unit + r = J.units) (pc : e.pc = .pReady) :
    Writing J e answer (J.programmedBefore e.unit) (4 * r) r
  | finished (pc : e.pc = .respond) (result : e.result = .ok) (count : e.count = J.length) :
    Writing J e answer (J.programmedBefore J.units) 0 0
  | answered (pc : e.pc.ready = true) (result : e.result = .ok) (response : answer = some ⟨.ok, J.length, none⟩) :
    Writing J e answer (J.programmedBefore J.units) 0 0

section
variable {s t u : State} {J : Job}

theorem mem_programStates {p : Pc} {n : Nat} : (p, n) ∈ programStates ↔
    p = .pUnit ∧ n = 0 ∨ p = .pWel ∧ n = 1 ∨ p = .pLoaded ∧ n = 2 ∨ p = .pCmd ∧ n = 3 := by
  simp [programStates]

theorem Job.programmedBefore_succ (k : Nat) :
    J.programmedBefore (k + 1) = J.programmedBefore k ++ J.programFrames k := by
  simp [programmedBefore, List.range_succ]

/-- A frame of a program unit that is the next one of the plan. -/
theorem State.Ran.programFrame {n r : Nat} {tx : List Byte} {next : Pc} {i : Instr}
    (h : u.Ran (J.programmedBefore u.eng.unit ++ (J.programFrames u.eng.unit).take n) (4 * r + (4 - n)) (r + 1))
    (htx : (J.programFrames u.eng.unit)[n]? = some ⟨tx, 0⟩) (hleft : u.eng.unit + (r + 1) = J.units)
    (hnext : (next, n + 1) ∈ programStates) (hframe : deviceReceives ⟨tx, 0⟩ = deviceOf 0 i)
    (hi : i ≠ .rdsr statusReg) : (u.unitFrame tx next).OnPlan J.Writing := by
  have hn : n < 3 := by
    have hstates : ∀ e ∈ programStates, e.2 < 4 := by decide
    exact Nat.lt_of_succ_lt_succ (hstates _ hnext)
  obtain ⟨hran, heng⟩ := State.Ran.unitFrame (frames := 4 * r + (4 - (n + 1))) (next := next)
    (by rwa [show 4 * r + (4 - (n + 1)) + 1 = 4 * r + (4 - n) by omega]) hframe hi
  refine ⟨_, _, _, ?_, hran⟩
  rw [heng, List.append_assoc, show [Frame.mk tx 0] = (J.programFrames u.eng.unit)[n]?.toList by rw [htx]; rfl,
    ← List.take_add_one]
  exact .inUnit r (n + 1) hleft hnext

/-- The test of the unit loop: the next unit, or the end with count LENGTH. -/
theorem State.Ran.programLoop (r : Nat) (h : u.Ran (J.programmedBefore u.eng.unit) (4 * r) r) (hserves : u.Serves J)
    (hop : J.op = hostWrite) (hleft : u.eng.unit + r = J.units) (hresult : u.eng.result = .ok) :
    u.loopTest.OnPlan J.Writing := by
  have hwrite : u.eng.op = hostWrite := hserves.op.trans hop
  have hne : hostWrite ≠ hostErase := by decide
  cases r with
  | zero =>
    have hall : u.eng.unit = J.units := hleft
    have hend : u.loopTest = u.finish u.eng.length := by
      simp [State.loopTest, hserves.nunits, hall, successCount, hwrite, hne]
    rw [hend]
    exact ⟨_, _, _, .finished rfl hresult hserves.length, (hall ▸ h).congr rfl rfl rfl⟩
  | succ r =>
    have hlt : u.eng.unit < u.eng.nunits := by rw [hserves.nunits]; omega
    have hgo : u.loopTest = u.goto .pUnit := by simp [State.loopTest, hlt, unitBoundaryOf, hwrite, hne]
    rw [hgo]
    exact ⟨_, _, _, .inUnit r 0 hleft (mem_programStates.2 (.inl ⟨rfl, rfl⟩)),
      (List.append_nil (J.programmedBefore u.eng.unit)).symm ▸ h.congr rfl rfl rfl⟩

/-- Behind WREN a program unit sends PLD with the bytes that are wanted for its page. -/
theorem State.Follows.seq_of_pWel (hs : s.Follows J) (hp : s.eng.pc = .pWel) (hseq : s.seq = .next t) :
    t = s.unitFrame (opcPld :: 0x00 :: 0x00 :: J.chunk s.eng.unit) .pLoaded := by
  cases hd : s.memRead s.eng.dst s.cfg.pageSize with
  | none => simp [State.seq, hp, State.seqPWel, hd] at hseq
  | some d =>
    obtain ⟨hlen, hdata⟩ := hs.memRead_data hp hd
    have hchunk : d = J.chunk s.eng.unit :=
      List.ext_getElem (by simpa [Job.chunk] using hlen) fun i hi _ => by simpa [Job.chunk] using hdata i hi
    rw [State.seq_of_pWel hp hd, hchunk] at hseq
    exact (Host.Outcome.next.inj hseq).symm

/-- The status read of a program unit is the last frame of its plan. -/
theorem State.Follows.seq_of_pCmd (hs : s.Follows J) (hop : J.op = hostWrite) (hp : s.eng.pc = .pCmd) {r : Nat}
    (hleft : s.eng.unit + (r + 1) = J.units)
    (hran : s.Ran (J.programmedBefore s.eng.unit ++ (J.programFrames s.eng.unit).take 3) (4 * r + 1) (r + 1))
    (hseq : s.seq = .next t) : t.OnPlan J.Writing := by
  have hpending : s.dev.pending = some (.program (J.page s.eng.unit)) := by
    have hunder : J.Underway s.eng.unit s.dev := by simpa [State.InPhase, hp] using hs.tracks.phase
    rw [hunder.pending, Job.command_of_write hop]
  rw [State.seq_of_await (.inr (.inl ⟨hp, rfl, rfl⟩))] at hseq
  cases hseq
  obtain ⟨hran, b, heng, hidle, hok⟩ := State.Ran.pollProgram (s := s.startAwait pfailMask) (polling := .pBusy)
    (hran.congr rfl rfl rfl) hpending hs.protocol.noFault
  have hsent : J.programmedBefore s.eng.unit ++ (J.programFrames s.eng.unit).take 3 ++ [⟨[opcRdsr, statusReg], 1⟩] =
      J.programmedBefore (s.eng.unit + 1) := by
    rw [Job.programmedBefore_succ, List.append_assoc]
    rfl
  refine ⟨_, _, _, ?_, hsent ▸ hran⟩
  rw [heng]
  exact .polled r hleft rfl hidle hok

/-- Each state of a program unit sends the next frame of the plan. -/
theorem State.Follows.seq_inUnit (hs : s.Follows J) (hop : J.op = hostWrite) (hc : s.eng.cancel = false) {n r : Nat}
    (hleft : s.eng.unit + (r + 1) = J.units) (hplace : (s.eng.pc, n) ∈ programStates)
    (hran : s.Ran (J.programmedBefore s.eng.unit ++ (J.programFrames s.eng.unit).take n) (4 * r + (4 - n)) (r + 1))
    (hseq : s.seq = .next t) : t.OnPlan J.Writing := by
  obtain ⟨hp, rfl⟩ | ⟨hp, rfl⟩ | ⟨hp, rfl⟩ | ⟨hp, rfl⟩ := mem_programStates.1 hplace
  · rw [State.seq_of_pUnit hp hc] at hseq
    cases hseq
    exact State.Ran.programFrame (u := s.atProgramUnit) (i := .wren) (hran.congr rfl rfl rfl) rfl hleft (by decide)
      deviceReceives_wren nofun
  · rw [hs.seq_of_pWel hp hseq]
    exact hran.programFrame (i := .pld 0 (J.chunk s.eng.unit)) rfl hleft (by decide) (deviceReceives_pld _) nofun
  · rw [State.seq_of_pLoaded hp, hs.page_eq (by rw [hp]; decide)] at hseq
    cases hseq
    exact hran.programFrame (i := .pex (field16 (J.page s.eng.unit))) rfl hleft (by decide) (deviceReceives_pex _) nofun
  · exact hs.seq_of_pCmd hop hp hleft hran hseq

/-- Every move of a plain WRITE is the next one of its plan. -/
theorem Job.executes_writing (hop : J.op = hostWrite) : J.Executes J.Writing := by
  intro s t h hs hc hin hseq
  have hserves := hs.tracks.serves
  obtain ⟨sent, frames, commands, hat, hran⟩ := h
  cases hat with
  | inUnit r n left place => exact hs.seq_inUnit hop hc left place hran hseq
  | polled _ left pc idle ok =>
    have hmove : s.seq = .next (s.unitReady .pReady) := by
      simp only [State.seq, pc, State.seqPBusy, State.seqBusy_of_settled idle ok]
    rw [hmove] at hseq
    cases hseq
    exact ⟨_, _, _, .counted _ (by simp only [State.unitReady_eng]; omega) rfl, hran.congr rfl rfl rfl⟩
  | counted _ left pc =>
    have hmove : s.seq = .next s.loopTest := by simp only [State.seq, pc]
    rw [hmove] at hseq
    cases hseq
    exact hran.programLoop _ hserves hop left (hs.tracks.going (by rw [pc]; decide))
  | finished pc result count =>
    have hmove : s.seq = .next s.respond := by simp only [State.seq, pc]
    rw [hmove] at hseq
    cases hseq
    refine ⟨_, _, _, .answered ?_ result ?_, hran.congr rfl rfl rfl⟩
    · rcases s.respond_pc with he | he <;> rw [he] <;> rfl
    · simp [State.responseRecord, result, count, hserves.op.trans hop, hostWrite, hostGeometry]
  | answered pc => rw [Pc.not_inFlight_of_ready pc] at hin; cases hin

/-- What a plain WRITE has sent and answers. -/
theorem State.OnPlan.written (h : s.OnPlan J.Writing) (hp : s.eng.pc.ready = true) :
    s.eng.result = .ok ∧ s.host.response = some ⟨.ok, J.length, none⟩ ∧
      framesOf s.trace = J.programmedBefore J.units ∧ s.eng.maybeBusy = false := by
  obtain ⟨sent, frames, commands, hat, hsent, -, hclear⟩ := h
  cases hat with
  | answered _ result response => exact ⟨result, response, hsent, hclear⟩
  | inUnit _ _ _ place =>
    have hstates : ∀ e ∈ programStates, e.1.ready = false := by decide
    exact absurd hp (by rw [hstates _ place]; decide)
  | polled _ _ pc | counted _ _ pc | finished pc =>
    rw [pc] at hp
    cases hp

end

/-! #### The job of a WRITE -/

section
variable {s : State} {offset length h : Nat} {b : List Byte}

/-- The job of a WRITE: the buffer's bytes are to be stored. -/
def State.writeJob (s : State) (offset length h : Nat) (b : List Byte) : Job :=
  s.job ⟨hostWrite, offset, length, some h⟩ fun a => b.getD (a - offset) 0

theorem State.Protocol.writeJob_sound (hs : s.Protocol) (hlength : 0 < length)
    (hblank : ∀ a, offset ≤ a → a < offset + length → s.dev.array.read a = 0xFF) :
    (s.writeJob offset length h b).Sound := by
  have hne : hostWrite ≠ hostErase ∧ hostWrite ≠ hostRead := by decide
  exact ⟨regular_of_valid hs.config, hlength, fun h => absurd h hne.1, fun h => absurd h hne.2, fun _ => hblank⟩

/-- The buffer that a WRITE names holds the bytes wanted for its range. -/
theorem State.writeJob_bufferHolds (hget : s.host.bufs[h]? = some b) (hsize : b.length = length) :
    (s.accept ⟨hostWrite, offset, length, some h⟩).BufferHolds (s.writeJob offset length h b)
      ((s.writeJob offset length h b).reach 0) := by
  refine ⟨b, by simpa [State.buffer] using hget, hsize, fun i _ hi => ?_⟩
  have hib : i < b.length := by rwa [hsize]
  simp [State.writeJob, State.job, List.getD, List.getElem?_eq_getElem hib]

/-- The chunk of a program unit is its page's share of the buffer (R199). -/
theorem State.chunk_writeJob (hoffset : s.cfg.pageSize ∣ offset) (hsize : b.length = length) {k : Nat}
    (hk : k < programUnits s.cfg length) :
    (s.writeJob offset length h b).chunk k = (b.drop (k * s.cfg.pageSize)).take s.cfg.pageSize := by
  have hend := programUnit_le hk
  have hbase : pageBase s.cfg (unitPage s.cfg offset k) = offset + k * s.cfg.pageSize := by
    rw [pageBase, unitPage, add_mul, Nat.div_mul_cancel hoffset]
  refine List.ext_getElem ?_ fun i hi _ => ?_
  · simp only [Job.chunk, State.writeJob, State.job, List.length_map, List.length_range, List.length_take,
      List.length_drop]
    omega
  · have hi' : i < s.cfg.pageSize := by simpa [Job.chunk, State.writeJob, State.job] using hi
    have hib : k * s.cfg.pageSize + i < b.length := by omega
    simp [Job.chunk, Job.page, State.writeJob, State.job, hbase, add_assoc, List.getD, hib]

/-- A WRITE that passes its checks, with nothing in its way, runs plainly to its response. -/
theorem State.Protocol.exec_write_plainly (hs : s.Protocol) (hp : s.eng.pc = .idle) (hclear : s.eng.maybeBusy = false)
    (hbp : s.dev.bp = 0x00) (hmoves : ∀ m ∈ s.host.moves, m = .quiet)
    (hchecks : writeChecks s.cfg offset length = true) (hlength : 0 < length) (hget : s.host.bufs[h]? = some b)
    (hsize : b.length = length) (hblank : ∀ a, offset ≤ a → a < offset + length → s.dev.array.read a = 0xFF)
    (hsmooth : s.Smooth (4 * (length / s.cfg.pageSize)) (length / s.cfg.pageSize)) :
    ∃ t, Machine.exec (.write offset length (some h)) s = .next t ∧ t.eng.pc = .idle ∧
      t.Follows (s.writeJob offset length h b) ∧ t.OnPlan (s.writeJob offset length h b).Writing := by
  have hfirst : (s.accept ⟨hostWrite, offset, length, some h⟩).withPlan.firstUnit.OnPlan
      (s.writeJob offset length h b).Writing :=
    State.Ran.programLoop _ ⟨rfl, hsmooth.of_draws rfl, hclear⟩ ⟨rfl, rfl, rfl, rfl, rfl, fun _ => hbp⟩ rfl
      (Nat.zero_add _) rfl
  exact hs.exists_exec_onPlan (i := .write offset length (some h)) hp hclear hmoves rfl hchecks
    (hs.writeJob_sound hlength hblank) (fun _ => hbp) (fun _ => State.writeJob_bufferHolds hget hsize)
    (Job.executes_writing rfl) hfirst

end

/-- Settles O59: every move of the run is the next one of the plan, and all units stand at its response. -/
theorem writeStoresItsBuffer : Obligations.WriteStoresItsBuffer := by
  intro s offset length h b hs hp hclear hbp hmoves hchecks hlength hget hsize hblank hsmooth
  have hready : s.eng.pc.ready = true := by rw [hp]; rfl
  obtain ⟨hoffset, hwhole⟩ := alignedTo_iff.1 (Bool.and_eq_true_iff.1 hchecks).2
  obtain ⟨t, hexec, htp, hfollows, hplain⟩ :=
    hs.exec_write_plainly hp hclear hbp hmoves hchecks hlength hget hsize hblank hsmooth
  obtain ⟨hresult, hresponse, hsent, htclear⟩ := hplain.written (by rw [htp]; rfl)
  have hstored : ∀ i (hi : i < b.length), t.dev.array.read (offset + i) = b[i] := by
    obtain ⟨t', hexec', -, hall, hstored, -⟩ := hs.exec_write hp hclear hlength hget hsize hchecks hbp hblank
    obtain rfl : t = t' := Host.Outcome.next.inj (hexec.symm.trans hexec')
    exact fun i hi => hstored i hi (by rwa [hall.1 hresult, Nat.div_mul_cancel hwhole, ← hsize])
  have hbufs := (State.buffers_of_order (order_of_exec rfl hready hs.noReset hexec) (.inr rfl)).1
  refine ⟨t, hexec, hresponse, hstored, fun a ha => ?_, hsent.trans (List.flatMap_congr fun k hk => ?_), htp, htclear,
    hfollows.protocol.noFault, hbufs⟩
  · refine hfollows.confined.device.outside a fun hin => ha ?_
    rw [State.Addresses, hfollows.tracks.serves.offset, hfollows.tracks.serves.length] at hin
    exact hin
  · rw [Job.programFrames, State.chunk_writeJob hoffset hsize (List.mem_range.1 hk)]
    rfl

end Sys2Proof.Machine
end

/-! ### The frames of a read slice -/

section
namespace Sys2Proof.Machine

/-- The bytes of an RCACHE frame by arithmetic: the column's high byte travels first (R104). -/
theorem readCacheFrame_eq_ofNat (col : Nat) :
    readCacheFrame col = [opcRdc, BitVec.ofNat 8 (col / 256), BitVec.ofNat 8 (col % 256), 0x00] := by
  have hfield := pageFrame_eq_ofNat opcRdc col
  simp only [pageFrame, List.cons.injEq, true_and, and_true] at hfield
  rw [readCacheFrame, hfield.1, hfield.2]

/-- The frame that a slice in CACHE is read with (R262). -/
def State.sendReadCache (s : State) : State := s.send (readCacheFrame s.eng.col) s.eng.slen

/-- A slice whose bytes are in the buffer is counted, and the unit loop is tested (R262). -/
def State.countSlice (s : State) : State := State.loopTest { s with eng := { s.eng with unit := s.eng.unit + 1 } }

section
variable (s : State)

@[simp] theorem State.sendReadCache_eng : s.sendReadCache.eng = s.eng := s.send_eng _ _
@[simp] theorem State.sendReadCache_host : s.sendReadCache.host = s.host := s.send_host _ _
@[simp] theorem State.sendReadCache_trace :
    s.sendReadCache.trace = s.trace ++ [.frame (readCacheFrame s.eng.col) s.eng.slen] := s.send_trace _ _

@[simp] theorem State.countSlice_reply : s.countSlice.reply = s.reply := by
  unfold State.countSlice State.loopTest
  split <;> rfl

@[simp] theorem State.countSlice_host : s.countSlice.host = s.host := by
  unfold State.countSlice State.loopTest
  split <;> rfl

@[simp] theorem State.countSlice_trace : s.countSlice.trace = s.trace := State.loopTest_trace _

end

section
variable {s u : State}

/-- While slices of a READ are left the loop goes on with the next one (R262). -/
theorem State.loopTest_of_read_lt (hop : s.eng.op = hostRead) (hlt : s.eng.unit < s.eng.nunits) :
    s.loopTest = s.goto .rUnit := by
  obtain ⟨herase, hwrite⟩ := ne_erase_write_of_read hop
  rw [State.loopTest, if_pos hlt, unitBoundaryOf, if_neg herase, if_neg hwrite]

/-- Behind the last slice a READ ends with count LENGTH (R262, R286). -/
theorem State.loopTest_of_read_le (hop : s.eng.op = hostRead) (hle : s.eng.nunits ≤ s.eng.unit) :
    s.loopTest = s.finish s.eng.length := by
  rw [State.loopTest, if_neg hle.not_gt, successCount, if_neg (ne_erase_write_of_read hop).1]

theorem State.countSlice_eng_of_lt (hop : s.eng.op = hostRead) (hlt : s.eng.unit + 1 < s.eng.nunits) :
    s.countSlice.eng = { s.eng with unit := s.eng.unit + 1, pc := .rUnit } :=
  congrArg State.eng
    (State.loopTest_of_read_lt (s := { s with eng := { s.eng with unit := s.eng.unit + 1 } }) hop hlt)

theorem State.countSlice_eng_of_le (hop : s.eng.op = hostRead) (hle : s.eng.nunits ≤ s.eng.unit + 1) :
    s.countSlice.eng = { s.eng with unit := s.eng.unit + 1, count := s.eng.length, pc := .respond } :=
  congrArg State.eng
    (State.loopTest_of_read_le (s := { s with eng := { s.eng with unit := s.eng.unit + 1 } }) hop hle)

/-- A read slice that is not cancelled begins with PRDC of the page of the slice it loads (R262, R353). -/
theorem State.seq_of_rUnit (hp : s.eng.pc = .rUnit) (hc : s.eng.cancel = false) :
    s.seq = .next (s.loadSlice.unitFrame (pageFrame opcPrdc s.loadSlice.eng.page) .rPageLoaded) := by
  simp [State.seq, hp, State.seqRUnit, hc]

/-- A transport error of RDC ends the request (R303). -/
theorem State.seq_of_rReady_error (hp : s.eng.pc = .rReady) (hr : s.sendReadCache.reply = .transportError) :
    s.seq = .next (s.sendReadCache.abortUnit .transportError) := by
  rw [State.sendReadCache] at hr ⊢
  simp only [State.seq, hp, State.seqRReady, hr]

/-- The bytes that answer RDC are written to the buffer at DST (R262). -/
theorem State.seq_of_rReady_data (hp : s.eng.pc = .rReady) {d : List Byte} (hr : s.sendReadCache.reply = .data d)
    (hw : s.sendReadCache.memWrite s.eng.dst d = some u) : s.seq = .next u.countSlice := by
  rw [State.sendReadCache] at hr hw
  simp only [State.seq, hp, State.seqRReady, hr, hw, State.countSlice]

/-- A write inside the buffer that BUF names replaces the buffer's own bytes, and leaves the last answer (R14). -/
theorem State.exists_memWrite_eq {h i : Nat} {b v : List Byte} (hbuf : s.eng.buf = some h)
    (hget : s.host.bufs[h]? = some b) (hle : i + v.length ≤ b.length) :
    ∃ u, s.memWrite i v = some u ∧ u.reply = s.reply ∧
      u.host.bufs = s.host.bufs.set h (b.take i ++ v ++ b.drop (i + v.length)) := by
  refine ⟨s.setBuffer (b.take i ++ v ++ b.drop (i + v.length)), ?_, ?_⟩
  · simp [State.memWrite, State.buffer, hbuf, hget, hle]
  · simp [State.setBuffer, hbuf]

end

/-- Settles O40: a slice is PRDC with its registers loaded, then RDC with its bytes in the buffer. -/
theorem readSliceSendsPrdcThenRdc : Obligations.ReadSliceSendsPrdcThenRdc := by
  intro s
  refine ⟨fun hp hc => ?_, fun h b hp hop hbuf hget hle => ?_⟩
  · obtain ⟨htrace, hanswer, herror⟩ :=
      s.loadSlice.unitFrame_spec (pageFrame opcPrdc s.loadSlice.eng.page) .rPageLoaded
    refine ⟨_, State.seq_of_rUnit hp hc, ?_, hanswer, fun hr => (herror hr).trans (State.raise_eng_of_leavesBusy rfl)⟩
    rw [htrace, pageFrame_eq_ofNat]
    rfl
  · have htrace := s.sendReadCache_trace
    rw [readCacheFrame_eq_ofNat] at htrace
    cases hr : s.sendReadCache.reply with
    | transportError =>
      refine ⟨_, State.seq_of_rReady_error hp hr, (State.abortUnit_trace _ _).trans htrace,
        fun hn => absurd ((State.abortUnit_reply _ _).trans hr) hn, fun _ => ?_⟩
      rw [State.abortUnit_eng, State.raise_eng_of_leavesBusy rfl, State.sendReadCache_eng]
    | data d =>
      have hlen : d.length = s.eng.slen := State.send_readCache_reply s _ _ hr
      obtain ⟨u, hw, hreply, hbufs⟩ := State.exists_memWrite_eq (s := s.sendReadCache) (i := s.eng.dst) (v := d)
        (by simpa using hbuf) (by simpa using hget) (by rwa [hlen])
      have heng : u.eng = s.eng := (State.memWrite_eng hw).trans s.sendReadCache_eng
      have hanswer : u.countSlice.reply = .data d := by rw [State.countSlice_reply, hreply, hr]
      have hread : u.eng.op = hostRead := heng ▸ hop
      refine ⟨_, State.seq_of_rReady_data hp hr hw, ?_, fun _ => ⟨d, hanswer, hlen, ?_, fun hlt => ?_, fun hend => ?_⟩,
        fun hn => ?_⟩
      · rw [State.countSlice_trace, State.memWrite_trace _ hw, htrace]
        rfl
      · rw [State.countSlice_host, hbufs, hlen, State.sendReadCache_host]
      · rw [← heng] at hlt ⊢
        exact State.countSlice_eng_of_lt hread hlt
      · rw [← heng] at hend ⊢
        exact State.countSlice_eng_of_le hread hend
      · rw [hanswer] at hn
        cases hn

end Sys2Proof.Machine
end

/-! ### A READ whose loads complete at their first status read -/

section
namespace Sys2Proof.Machine

/-! #### The frames of a read slice that succeed -/

section
variable {s t : State} {sent : List Frame} {frames commands page : Nat}

/-- A completed load takes a completion, but no success of a write or an erase. -/
theorem State.Smooth.past_load (h : s.Smooth (frames + 1) (commands + 1))
    (ht : t.draws.lists = s.draws.pastTransport.pastCompletes.lists) : t.Smooth frames commands := by
  obtain ⟨htransport, hcompletes, hsucceeds⟩ := by simpa only [Draws.lists, Prod.mk.injEq] using ht
  refine ⟨fun k hk => ?_, fun k hk => ?_, fun k hk => ?_⟩
  · rw [htransport]
    exact List.getElem?_tail.trans (h.transport (k + 1) (Nat.succ_lt_succ hk))
  · rw [hcompletes]
    exact List.getElem?_tail.trans (h.completes (k + 1) (Nat.succ_lt_succ hk))
  · rw [hsucceeds]
    exact h.succeeds k (Nat.lt_succ_of_lt hk)

/-- A completing load takes no draw (R140). -/
theorem State.complete_load_draws (hp : s.dev.pending = some (.load page)) : s.complete.draws = s.draws := by
  simp [State.complete, hp]

/-- The status read of a slice, at which its load completes. -/
theorem State.Ran.pollLoad {polling : Pc} (h : s.Ran sent (frames + 1) (commands + 1))
    (hp : s.dev.pending = some (.load page)) (hfault : s.dev.dfault = false) :
    (s.pollUnit polling).Ran (sent ++ [⟨[opcRdsr, statusReg], 1⟩]) frames commands ∧
      ∃ b, (s.pollUnit polling).eng = { s.eng with status := b, polls := s.eng.polls + 1, pc := polling } ∧
        busyBit b = false := by
  obtain ⟨hlists, b, hb, hidle, -⟩ := devRdsr_of_completing (s := s.carrying [opcRdsr, statusReg] 1) (mask := noMask) hp
    hfault (List.head?_eq_getElem?.trans (h.draws.completes 0 (Nat.succ_pos _))) fun _ => BitVec.and_zero
  have hdraws := hlists.trans (congrArg Draws.lists (State.complete_load_draws hp))
  obtain ⟨hran, heng⟩ := h.pollUnit_of_read (polling := polling) hb (h.draws.past_load hdraws)
  exact ⟨hran, b, heng, hidle⟩

/-- The memory write of a read slice takes no draw. -/
theorem State.memWrite_draws {i : Nat} {v : List Byte} (h : s.memWrite i v = some t) : t.draws = s.draws := by
  unfold State.memWrite at h
  split at h
  · cases h
  · split at h
    · cases h
      exact (s.setBuffer_rest _).2.2.2.1
    · cases h

/-- An RDC that is answered moves on with its bytes in the buffer (R262). -/
theorem State.Ran.readCache (h : s.Ran sent (frames + 1) commands) (hp : s.eng.pc = .rReady) (hslen : 1 ≤ s.eng.slen)
    (hseq : s.seq = .next t) :
    ∃ u : State, t = u.countSlice ∧ u.eng = s.eng ∧
      u.Ran (sent ++ [⟨readCacheFrame s.eng.col, s.eng.slen⟩]) frames commands := by
  obtain ⟨⟨d, hr⟩, hsmooth⟩ := State.send_smooth (i := .rdc (field16 s.eng.col) s.eng.slen) h.draws
    (deviceReceives_rdc s.eng.col s.eng.slen (Nat.one_le_iff_ne_zero.1 hslen)) nofun
  have hran : s.sendReadCache.Ran (sent ++ [⟨readCacheFrame s.eng.col, s.eng.slen⟩]) frames commands :=
    ⟨by simp [framesOf, ← h.sent], hsmooth, by simpa using h.clear⟩
  cases hw : s.sendReadCache.memWrite s.eng.dst d with
  | none =>
    rw [State.sendReadCache] at hw
    simp [State.seq, hp, State.seqRReady, hr, hw] at hseq
  | some u =>
    rw [State.seq_of_rReady_data hp hr hw] at hseq
    have heng : u.eng = s.sendReadCache.eng := State.memWrite_eng hw
    exact ⟨u, (Host.Outcome.next.inj hseq).symm, heng.trans s.sendReadCache_eng,
      hran.congr (State.memWrite_trace _ hw) (State.memWrite_draws hw) (congrArg Engine.maybeBusy heng)⟩

end

/-! #### The plan of a READ -/

/-- The slice of unit `k` (R203). -/
def Job.slice (J : Job) (k : Nat) : Slice := sliceAt J.cfg J.offset J.length k

/-- The frames of read slice `k` whose first status read settles it (R262). -/
def Job.sliceFrames (J : Job) (k : Nat) : List Frame :=
  [⟨pageFrame opcPrdc (J.slice k).page, 0⟩, ⟨[opcRdsr, statusReg], 1⟩,
    ⟨readCacheFrame (J.slice k).columnOffset, (J.slice k).lengthInPage⟩]

/-- The frames of the read slices before slice `k`. -/
def Job.readBefore (J : Job) (k : Nat) : List Frame := (List.range k).flatMap J.sliceFrames

/-- Where a plain READ stands, with `r` slices after the one in progress. -/
inductive Job.Reading (J : Job) (e : Engine) (answer : Option Response) : List Frame → Nat → Nat → Prop
  | boundary (r : Nat) (left : e.unit + (r + 1) = J.units) (pc : e.pc = .rUnit) :
    Reading J e answer (J.readBefore e.unit) (3 * r + 3) (r + 1)
  | loading (r : Nat) (left : e.unit + (r + 1) = J.units) (pc : e.pc = .rPageLoaded) :
    Reading J e answer (J.readBefore e.unit ++ (J.sliceFrames e.unit).take 1) (3 * r + 2) (r + 1)
  | polled (r : Nat) (left : e.unit + (r + 1) = J.units) (pc : e.pc = .rBusy) (idle : busyBit e.status = false) :
    Reading J e answer (J.readBefore e.unit ++ (J.sliceFrames e.unit).take 2) (3 * r + 1) r
  | loaded (r : Nat) (left : e.unit + (r + 1) = J.units) (pc : e.pc = .rReady) :
    Reading J e answer (J.readBefore e.unit ++ (J.sliceFrames e.unit).take 2) (3 * r + 1) r
  | finished (pc : e.pc = .respond) (result : e.result = .ok) (count : e.count = J.length) :
    Reading J e answer (J.readBefore J.units) 0 0
  | answered (pc : e.pc.ready = true) (result : e.result = .ok) (response : answer = some ⟨.ok, J.length, none⟩) :
    Reading J e answer (J.readBefore J.units) 0 0

section
variable {s t u : State} {J : Job}

theorem Job.readBefore_succ (k : Nat) : J.readBefore (k + 1) = J.readBefore k ++ J.sliceFrames k := by
  simp [readBefore, List.range_succ]

/-- The slice that the registers name is the job's. -/
theorem State.Serves.slice_eq (h : s.Serves J) (k : Nat) : sliceAt s.cfg s.eng.offset s.eng.length k = J.slice k := by
  rw [h.cfg, h.offset, h.length, Job.slice]

/-- The test of the slice loop: the next slice, or the end with count LENGTH. -/
theorem State.Ran.readLoop (r : Nat) (h : u.Ran (J.readBefore u.eng.unit) (3 * r) r) (hop : u.eng.op = hostRead)
    (hlength : u.eng.length = J.length) (hnunits : u.eng.nunits = J.units) (hleft : u.eng.unit + r = J.units)
    (hresult : u.eng.result = .ok) : u.loopTest.OnPlan J.Reading := by
  cases r with
  | zero =>
    have hall : u.eng.unit = J.units := hleft
    rw [State.loopTest_of_read_le hop (hnunits.trans hall.symm).le]
    exact ⟨_, _, _, .finished rfl hresult hlength, (hall ▸ h).congr rfl rfl rfl⟩
  | succ r =>
    rw [State.loopTest_of_read_lt hop (by omega)]
    exact ⟨_, _, _, .boundary r hleft rfl, h.congr rfl rfl rfl⟩

/-- The status read of a slice whose load is underway is the next frame of the plan. -/
theorem State.Follows.seq_of_rPageLoaded (hs : s.Follows J) (hop : J.op = hostRead) (hp : s.eng.pc = .rPageLoaded)
    {r : Nat} (hleft : s.eng.unit + (r + 1) = J.units)
    (hran : s.Ran (J.readBefore s.eng.unit ++ (J.sliceFrames s.eng.unit).take 1) (3 * r + 2) (r + 1))
    (hseq : s.seq = .next t) : t.OnPlan J.Reading := by
  have hpending : s.dev.pending = some (.load (J.page s.eng.unit)) := by
    obtain ⟨hunder, -⟩ : J.Underway s.eng.unit s.dev ∧ s.SliceLoaded J := by
      simpa [State.InPhase, hp] using hs.tracks.phase
    rw [hunder.pending, Job.command_of_read hop]
  rw [State.seq_of_await (.inr (.inr ⟨hp, rfl, rfl⟩))] at hseq
  cases hseq
  obtain ⟨hran, b, heng, hidle⟩ := State.Ran.pollLoad (s := s.startAwait noMask) (polling := .rBusy)
    (hran.congr rfl rfl rfl) hpending hs.protocol.noFault
  rw [List.append_assoc] at hran
  refine ⟨_, _, _, ?_, hran⟩
  rw [heng]
  exact .polled r hleft rfl hidle

/-- A slice that is ready is read with the last frame of its plan, and counted. -/
theorem State.Follows.seq_of_rReady (hs : s.Follows J) (hop : J.op = hostRead) (hp : s.eng.pc = .rReady)
    {r : Nat} (hleft : s.eng.unit + (r + 1) = J.units)
    (hran : s.Ran (J.readBefore s.eng.unit ++ (J.sliceFrames s.eng.unit).take 2) (3 * r + 1) r)
    (hseq : s.seq = .next t) : t.OnPlan J.Reading := by
  have hserves := hs.tracks.serves
  obtain ⟨-, hcol, hslen, -⟩ : J.CacheHolds s.eng.unit s.dev ∧ s.SliceLoaded J := by
    simpa [State.InPhase, hp] using hs.tracks.phase
  obtain ⟨hfirst, -⟩ := hs.protocol.frameReady.sliceFits (by simp [hp])
  obtain ⟨u, rfl, heng, hran⟩ := hran.readCache hp hfirst hseq
  rw [hcol, hslen, ← heng] at hran
  have hsent : J.readBefore u.eng.unit ++ (J.sliceFrames u.eng.unit).take 2 ++
      [⟨readCacheFrame (J.slice u.eng.unit).columnOffset, (J.slice u.eng.unit).lengthInPage⟩] =
        J.readBefore (u.eng.unit + 1) := by
    rw [Job.readBefore_succ, List.append_assoc]
    rfl
  refine State.Ran.readLoop (u := { u with eng := { u.eng with unit := u.eng.unit + 1 } }) r
    ((hsent ▸ hran :).congr rfl rfl rfl) ?_ ?_ ?_ ?_ ?_ <;> simp only [heng]
  · exact hserves.op.trans hop
  · exact hserves.length
  · exact hserves.nunits
  · omega
  · exact hs.tracks.going (by rw [hp]; decide)

/-- Every move of a plain READ is the next one of its plan. -/
theorem Job.executes_reading (hop : J.op = hostRead) : J.Executes J.Reading := by
  intro s t h hs hc hin hseq
  have hserves := hs.tracks.serves
  obtain ⟨sent, frames, commands, hat, hran⟩ := h
  cases hat with
  | boundary r left pc =>
    rw [State.seq_of_rUnit pc hc, State.loadSlice_eng, hserves.slice_eq] at hseq
    cases hseq
    obtain ⟨hran, heng⟩ := State.Ran.unitFrame (s := s.loadSlice) (next := .rPageLoaded)
      (i := .prdc (field16 (J.slice s.eng.unit).page)) (hran.congr rfl rfl rfl) (deviceReceives_prdc _) nofun
    refine ⟨_, _, _, ?_, hran⟩
    rw [heng]
    exact .loading r left rfl
  | loading r left pc => exact hs.seq_of_rPageLoaded hop pc left hran hseq
  | polled _ left pc idle =>
    have hmask : s.eng.mask = 0 := by
      obtain ⟨hawaits, -⟩ : J.Awaits s.eng.unit s ∧ s.SliceLoaded J := by
        simpa [State.InPhase, pc] using hs.tracks.phase
      rw [hawaits.mask, Job.failMask, hop]
      rfl
    rw [State.seq_of_rBusy pc, State.seqBusy_of_settled idle (by rw [hmask]; exact BitVec.and_zero)] at hseq
    cases hseq
    exact ⟨_, _, _, .loaded _ left rfl, hran.congr rfl rfl rfl⟩
  | loaded _ left pc => exact hs.seq_of_rReady hop pc left hran hseq
  | finished pc result count =>
    have hmove : s.seq = .next s.respond := by simp only [State.seq, pc]
    rw [hmove] at hseq
    cases hseq
    refine ⟨_, _, _, .answered ?_ result ?_, hran.congr rfl rfl rfl⟩
    · rcases s.respond_pc with he | he <;> rw [he] <;> rfl
    · simp [State.responseRecord, result, count, hserves.op.trans hop, hostRead, hostGeometry]
  | answered pc => rw [Pc.not_inFlight_of_ready pc] at hin; cases hin

/-- What a plain READ has sent and answers. -/
theorem State.OnPlan.read (h : s.OnPlan J.Reading) (hp : s.eng.pc.ready = true) :
    s.eng.result = .ok ∧ s.host.response = some ⟨.ok, J.length, none⟩ ∧
      framesOf s.trace = J.readBefore J.units ∧ s.eng.maybeBusy = false := by
  obtain ⟨sent, frames, commands, hat, hsent, -, hclear⟩ := h
  cases hat with
  | answered _ result response => exact ⟨result, response, hsent, hclear⟩
  | boundary _ _ pc | loading _ _ pc | polled _ _ pc | loaded _ _ pc | finished pc =>
    rw [pc] at hp
    cases hp

end

/-! #### The job of a READ -/

section
variable {s : State} {offset length h : Nat} {b : List Byte}

/-- The job of a READ: the bytes that ARRAY holds are wanted in the buffer. -/
def State.readJob (s : State) (offset length h : Nat) : Job :=
  s.job ⟨hostRead, offset, length, some h⟩ s.dev.array.read

theorem State.Protocol.readJob_sound (hs : s.Protocol) (hlength : 0 < length) :
    (s.readJob offset length h).Sound := by
  obtain ⟨herase, hwrite⟩ := ne_erase_write_of_read (op := hostRead) rfl
  exact ⟨regular_of_valid hs.config, hlength, fun h => absurd h herase, fun _ _ => rfl, fun h => absurd h hwrite⟩

/-- Before its first slice a READ owes nothing to its buffer. -/
theorem State.readJob_bufferHolds (hget : s.host.bufs[h]? = some b) (hsize : b.length = length) :
    (s.accept ⟨hostRead, offset, length, some h⟩).BufferHolds (s.readJob offset length h)
      ((s.readJob offset length h).reach 0) := by
  have hzero : (s.readJob offset length h).reach 0 = 0 := (Job.reach_eq_dst rfl).trans sliceAt_zero_dst
  exact ⟨b, by simpa [State.buffer] using hget, hsize, fun i hi => absurd (hzero ▸ hi) i.not_lt_zero⟩

/-- A READ that passes its checks, with nothing in its way, runs plainly to its response. -/
theorem State.Protocol.exec_read_plainly (hs : s.Protocol) (hp : s.eng.pc = .idle) (hclear : s.eng.maybeBusy = false)
    (hmoves : ∀ m ∈ s.host.moves, m = .quiet) (hchecks : readChecks s.cfg offset length = true) (hlength : 0 < length)
    (hget : s.host.bufs[h]? = some b) (hsize : b.length = length)
    (hsmooth : s.Smooth (3 * spannedPages s.cfg offset length) (spannedPages s.cfg offset length)) :
    ∃ t, Machine.exec (.read offset length (some h)) s = .next t ∧ t.eng.pc = .idle ∧
      t.Follows (s.readJob offset length h) ∧ t.OnPlan (s.readJob offset length h).Reading := by
  have hfirst : (s.accept ⟨hostRead, offset, length, some h⟩).withPlan.firstUnit.OnPlan
      (s.readJob offset length h).Reading :=
    State.Ran.readLoop _ ⟨rfl, hsmooth.of_draws rfl, hclear⟩ rfl rfl rfl (Nat.zero_add _) rfl
  exact hs.exists_exec_onPlan (i := .read offset length (some h)) hp hclear hmoves rfl hchecks
    (hs.readJob_sound hlength) (fun hne => absurd rfl hne) (fun _ => State.readJob_bufferHolds hget hsize)
    (Job.executes_reading rfl) hfirst

end

/-- The pages that a range spans reach behind its last byte (R203). -/
theorem lt_end_of_spannedPages {c : Config} (hpage : 0 < c.pageSize) {offset length i : Nat} (hi : i < length) :
    offset + i < (offset / c.pageSize + spannedPages c offset length) * c.pageSize := by
  have hfirst : offset / c.pageSize ≤ (offset + length - 1) / c.pageSize := Nat.div_le_div_right (by omega)
  have hlast : (offset + i) / c.pageSize ≤ (offset + length - 1) / c.pageSize := Nat.div_le_div_right (by omega)
  refine Nat.lt_mul_of_div_lt ?_ hpage
  unfold spannedPages
  omega

/-- Settles O60: every move of the run is the next one of the plan, and all slices are in the buffer at its response. -/
theorem readFillsItsBuffer : Obligations.ReadFillsItsBuffer := by
  intro s offset length h b hs hp hclear hmoves hchecks hlength hget hsize hsmooth
  have hready : s.eng.pc.ready = true := by rw [hp]; rfl
  have hidle : s.dev.busy = false := hs.accept_idle hready ⟨hostRead, offset, length, some h⟩ (.inl hclear)
  obtain ⟨t, hexec, htp, hfollows, hplain⟩ :=
    hs.exec_read_plainly hp hclear hmoves hchecks hlength hget hsize hsmooth
  obtain ⟨hresult, hresponse, hsent, htclear⟩ := hplain.read (by rw [htp]; rfl)
  obtain ⟨t', out, hexec', hout, hlen, -, hall, hholds⟩ := hs.exec_read hp hclear hlength hget hsize hchecks
  obtain rfl : t = t' := Host.Outcome.next.inj (hexec.symm.trans hexec')
  rw [hall.1 hresult] at hholds
  have horder := order_of_exec (r := ⟨hostRead, offset, length, some h⟩) rfl hready hs.noReset hexec
  obtain ⟨-, -, -, -, -, -, -, hbuf⟩ := State.fields_of_order horder
  have hothers := State.otherBuffers_of_order horder (ne_erase_write_of_read rfl)
  obtain ⟨hdev, -⟩ := readChangesOnlyTheCache s t offset length (some h) hs hidle hexec
  refine ⟨t, out, hexec, hresponse, hout, hlen, fun i hi => ?_, fun k hk => ?_, fun a => ?_, ?_, htp, htclear,
    hfollows.protocol.noFault⟩
  · exact hholds i hi (lt_end_of_spannedPages (regular_of_valid hs.config).pageSize_pos hi)
  · exact State.bufs_getElem?_of_otherBuffers hothers hbuf fun he => hk (Option.some.inj he).symm
  · rw [hdev]
  · rw [hsent, planAccess, List.flatMap_map]
    rfl

end Sys2Proof.Machine
end

/-! ### Taking a request, holding it and refusing it, and GEOMETRY -/

section
namespace Sys2Proof.Machine

/-- A READ or WRITE record that names no buffer, an unknown one or one of another length breaks the host's duty
(R287 (b)). -/
theorem State.accept_bufferKept_eq_false {s : State} {r : Request}
    (h : ∀ k b, r.buf = some k → s.host.bufs[k]? = some b → b.length ≠ r.length) :
    (s.accept r).bufferKept = false := by
  refine Bool.eq_false_iff.2 fun hkept => ?_
  obtain ⟨b, hbuffer, hsize⟩ := Option.map_eq_some_iff.1 (State.bufferKept_iff.1 hkept)
  obtain ⟨k, hbuf, hget⟩ := Option.bind_eq_some_iff.1 hbuffer
  exact h k b hbuf hget hsize

/-- Settles O6: fetch takes the record and the host's move, and the step is the record's instruction. -/
theorem stepRunsTheRequestOnThePort : Obligations.StepRunsTheRequestOnThePort := by
  intro s r rest i hv hf hp hr hq hoffset hlength hd
  have hw : recordFits s.cfg r = true := by simp [recordFits, hoffset, hlength]
  rw [step, fetch_of_ready hv hf hp hr, fetchRequest_of_ok (s := s.takeMove) hq hw hd,
    State.takeRecord_eq_of_ready hp, State.takeRecord]

/-- Settles O51: an engine that is not READY holds the request, and acceptance finds the host's duty broken. -/
theorem requestsThatDoNotRun : Obligations.RequestsThatDoNotRun := by
  refine ⟨fun s i hi hp => exec_of_not_ready hi hp, fun s offset length buf hp hbuf => ⟨?_, ?_⟩⟩
  · rw [exec_of_record (r := ⟨hostRead, offset, length, buf⟩) rfl hp,
      if_pos ⟨.inl rfl, State.accept_bufferKept_eq_false hbuf⟩]
  · rw [exec_of_record (r := ⟨hostWrite, offset, length, buf⟩) rfl hp,
      if_pos ⟨.inr rfl, State.accept_bufferKept_eq_false hbuf⟩]

/-- Settles O46: GEOMETRY is its acceptance and its response, and acceptance keeps what the response reports. -/
theorem geometryReportsTheConfiguration : Obligations.GeometryReportsTheConfiguration := by
  intro s offset length buf hp hr
  have hop : ¬ (hostGeometry = hostRead ∨ hostGeometry = hostWrite) := by decide
  have hexec := exec_of_answer (s := s) (i := .geometry offset length buf)
    (r := ⟨hostGeometry, offset, length, buf⟩) rfl hp hr (fun h => absurd h hop) (State.dispatch_of_geometry rfl) rfl
  refine ⟨_, hexec, rfl, ⟨rfl, rfl, rfl, rfl⟩, rfl, ?_, rfl, rfl⟩
  exact State.AnsweredBy.pc_of_accept (s := s) (r := ⟨hostGeometry, offset, length, buf⟩) ⟨rfl, _, rfl, rfl⟩ hp

end Sys2Proof.Machine
end

/-! ### A faulted run -/

section
namespace Sys2Proof.Machine

/-- What every step keeps, every run of the machine keeps. -/
theorem run_keeps {P : State → Prop} (hstep : ∀ s t, step s = .next t → P s → P t) {n : Nat} {s t : State}
    (h : core.run n s = .next t) (hs : P s) : P t := by
  induction n generalizing s with
  | zero => cases h; exact hs
  | succ n ih =>
    simp only [Host.Core.run] at h
    split at h
    · rename_i u hu
      exact ih h (hstep s u hu hs)
    · cases h
    · cases h

/-- A faulted state is not final and satisfies no claim (R320). -/
theorem State.Faulted.satisfies_none {t : State} (h : t.Faulted) :
    t.verdict = .faulted ∧ t.verdict ≠ .final ∧ ∀ claim, ¬ t.Satisfies claim := by
  have hverdict : t.verdict = .faulted := if_pos h
  exact ⟨hverdict, by rw [hverdict]; decide, fun _ hsat => hsat.1 hverdict⟩

/-- Settles O26: DFAULT is sticky along every step and instruction, and the response record does not read it. -/
theorem faultedRunsSatisfyNoClaim : Obligations.FaultedRunsSatisfyNoClaim :=
  ⟨fun _ _ _ hs h => (run_keeps (fun u v => deviceFaultIsSticky u v) h hs).satisfies_none,
    fun _ _ _ hs h => (keepsFault_followsDevice.exec h hs).satisfies_none,
    fun _ _ => rfl⟩

end Sys2Proof.Machine
end

/-! ### Launch, reset and bring-up -/

section
namespace Sys2Proof.Machine

section
variable {s : State}

/-- In BRINGUP the sequencer has no plan to keep, and the protocol asks for an idle device without fault (R343). -/
theorem State.LaunchPremises.protocol (h : s.LaunchPremises) (hreset : s.NoReset) (hp : s.eng.pc = .bringup) :
    s.Protocol where
  config := h.config
  onlyEngine := h.onlyEngine
  noReset := hreset
  noFault := h.noFault
  idleWhenKnown := State.deviceIdleWhenKnown_of_idle h.idle
  frameReady := by simp [State.FrameReady, hp]
  planStands := .of_outside (by rw [hp]; rfl) (by rw [hp]; decide)

/-- The reset configuration is valid, whatever its OPEN parameters are (R8, R10). -/
theorem reference_valid : Config.reference.valid = true := rfl

/-- The machine right after reset is ready for a launch (R51, R343). -/
theorem reset_launchPremises : State.reset.LaunchPremises := ⟨reference_valid, rfl, rfl, rfl⟩

/-- Settles O30: with the reset engine the protocol is the launch premises, and `State.reset` meets these. -/
theorem launchMeetsTheInvariants : Obligations.LaunchMeetsTheInvariants :=
  ⟨fun _ hlaunch hreset heng => hlaunch.protocol hreset (by rw [heng]; rfl),
    reset_launchPremises.protocol List.not_mem_nil rfl, State.reset_memory_wf⟩

/-- A reset is taken before anything else (R340). -/
theorem State.transition_of_reset (h : s.resetNow = true) : s.transition = .next s.takeMove.resetEngine := if_pos h

/-- Settles O31: a reset writes `Engine.reset`, which lists the values of R50. -/
theorem resetRestartsTheEngine : Obligations.ResetRestartsTheEngine :=
  ⟨fun _ hr => ⟨_, State.transition_of_reset hr, rfl, rfl, rfl⟩, rfl⟩

/-- WRSR of register 0xA0 writes BP, and DevCheck marks a busy device (R132, R84 (a)). -/
theorem devWrsr_protect (s : State) (value : Byte) : (devWrsr protectReg value s).2.dev =
    { s.dev with bp := value, dfault := s.dev.dfault || s.dev.busy } := by
  unfold devWrsr State.devCheck
  cases s.dev.busy <;> simp [*]

/-- The frame of bring-up: it leaves BUSY, and if it is answered, BP is cleared (R342). -/
theorem State.send_clearProtect (s : State) :
    let t := s.send [opcWrsr, protectReg, 0x00] 0
    t.dev.busy = s.dev.busy ∧ (t.reply ≠ .transportError →
      t.dev = { s.dev with bp := 0x00, dfault := s.dev.dfault || s.dev.busy }) := by
  simp only [State.send, deviceReceives_wrsr]
  rcases State.transact_cases { s with trace := s.trace ++ [.frame [opcWrsr, protectReg, 0x00] 0] }
    (devWrsr protectReg 0x00) with ⟨-, h⟩ | ⟨-, h⟩ | ⟨-, h⟩ <;> rw [h]
  · simp only [devWrsr_protect]
    exact ⟨rfl, fun _ => trivial⟩
  · simp only [devWrsr_protect]
    exact ⟨rfl, fun hr => absurd rfl hr⟩
  · exact ⟨rfl, fun hr => absurd rfl hr⟩

/-- Bring-up is one frame, and then DEAD or IDLE (R342, R344). -/
theorem State.seqBringup_spec (s : State) :
    let t := s.send [opcWrsr, protectReg, 0x00] 0
    (t.reply = .transportError ∧ s.seqBringup = t.goto .dead) ∨
      (t.reply ≠ .transportError ∧ s.seqBringup = t.goto .idle) := by
  simp only [State.seqBringup]
  cases h : (s.send [opcWrsr, protectReg, 0x00] 0).reply <;> simp

/-- Settles O32: bring-up is one frame, whose answer shows that the device has taken it. -/
theorem bringUpClearsProtection : Obligations.BringUpClearsProtection := by
  intro s hp hr
  obtain ⟨hbusy, hanswer⟩ := s.takeMove.send_clearProtect
  refine ⟨s.takeMove.seqBringup, ?_, ?_⟩
  · rw [State.transition_of_no_reset s hr]
    simp [State.seq, hp]
  · rcases s.takeMove.seqBringup_spec with ⟨hreply, h⟩ | ⟨hreply, h⟩ <;> rw [h]
    · exact ⟨State.send_trace _ _ _, hbusy, fun _ => rfl, fun hn => absurd hreply hn⟩
    · have hdev := hanswer hreply
      exact ⟨State.send_trace _ _ _, hbusy, fun he => absurd he hreply, fun _ => ⟨rfl, congrArg Device.bp hdev,
        congrArg Device.dfault hdev⟩⟩

end

end Sys2Proof.Machine
end

/-! ### Error entry and return -/

section
namespace Sys2Proof.Machine

/-- The errors that leave MAYBE_BUSY set are TIMEOUT and TRANSPORT_ERROR (R309). -/
theorem ErrorCode.leavesBusy_eq (e : ErrorCode) : e.leavesBusy = decide (e = .timeout ∨ e = .transportError) := by
  cases e <;> rfl

/-- Settles O35: `raise` and `respond` are the two updates. -/
theorem errorsEnterAndLeaveThroughRespond : Obligations.ErrorsEnterAndLeaveThroughRespond :=
  ⟨fun s e => by rw [State.raise, ErrorCode.leavesBusy_eq],
    fun s hp => ⟨s.respond, by simp [State.seq, hp], rfl, rfl⟩⟩

end Sys2Proof.Machine
end

/-! ### A DEAD engine -/

section
namespace Sys2Proof.Machine

section
variable {s t : State}

/-- An error before the first unit touches the registers and a READ's buffer only. -/
theorem State.raiseBeforeUnits_sameDevice (s : State) (e : ErrorCode) : State.SameDevice s (s.raiseBeforeUnits e) := by
  obtain ⟨hcfg, -, hdev, hport, hreply, -⟩ := s.spoilBuffer_rest 0
  unfold State.raiseBeforeUnits
  split
  · exact ⟨hcfg, hdev, hport, hreply⟩
  · exact ⟨rfl, rfl, rfl, rfl⟩

/-- The test of the unit loop leaves the last answer. -/
theorem State.loopTest_reply (s : State) : s.loopTest.reply = s.reply := by
  unfold State.loopTest
  split <;> rfl

/-- The run of an accepted request begins without a frame. -/
theorem State.Begins.sameDevice (h : s.Begins t) : State.SameDevice s t := by
  have hreply : t.reply = s.reply := by
    cases h with
    | answers result =>
      rcases result with rfl | rfl | rfl
      · rfl
      · rfl
      · exact (s.raiseBeforeUnits_sameDevice _).reply
    | recovers _ _ result => rw [result]; rfl
    | loops _ _ result => rw [result]; exact State.loopTest_reply _
  have hledger := h.ledger false
  exact ⟨congrArg Ledger.cfg hledger, h.dev, congrArg Ledger.framePort hledger, hreply⟩

/-- A DEAD engine has no way on but the answer (R344). -/
theorem State.Begins.pc_of_dead (h : s.Begins t) (hd : s.eng.wasDead = true) : t.eng.pc = .respond := by
  cases h with
  | answers result =>
    rcases result with rfl | rfl | rfl
    · rfl
    · rfl
    · rw [State.raiseBeforeUnits_eng]; rfl
  | recovers _ alive | loops _ alive => rw [hd] at alive; cases alive

/-- Behind the answer to a request that it accepted in DEAD the engine is DEAD, and no frame was sent. -/
structure State.StaysDead (s t : State) : Prop where
  sameDevice : State.SameDevice s t
  trace : t.trace = []
  pc : t.eng.pc = .dead

theorem State.Begins.staysDead {r : Request} (h : (s.accept r).Begins t) (hp : s.eng.pc = .dead) :
    s.StaysDead t.takeMove.respond := by
  obtain ⟨hcfg, hdev, hport, hreply⟩ := h.sameDevice
  have hdead : t.eng.wasDead = true := by
    rw [show t.eng.wasDead = (s.eng.pc == .dead) from congrArg Ledger.wasDead (h.ledger false), hp]
    rfl
  exact ⟨⟨hcfg, hdev, hport, hreply⟩, h.trace, if_pos hdead⟩

/-- Whatever a DEAD engine is asked, it answers at once. -/
theorem State.staysDead_of_exec {i : Instr} {r : Request} (hi : encode i = .request r) (hp : s.eng.pc = .dead)
    (hs : s.NoReset) (h : exec i s = .next t) : s.StaysDead t := by
  have hbegins := (s.accept r).dispatch_begins
  have hrun := runRequest_of_exec hi (by rw [hp]; rfl) h
  rw [State.runRequest_of_respond (hbegins.pc_of_dead (by simp [hp]))
    (State.resetNow_of_noReset _ (hbegins.running hs).noReset)] at hrun
  cases hrun
  exact hbegins.staysDead hp

/-- A request that passes its checks and is not empty reaches the engine's state: DEAD, or the units (R285, R308). -/
theorem State.dispatch_of_passed (hop : s.eng.op ≠ hostGeometry) (hchecks : s.checksPass = true)
    (hlength : 0 < s.eng.length) : s.dispatch =
      if s.eng.wasDead = true then s.raiseBeforeUnits .transportError else s.startUnits s.plannedUnits := by
  rw [State.dispatch, if_neg hop, State.handle, hchecks, if_neg (by decide), if_neg hlength.ne']

/-- A request whose host keeps its duty runs (R281, R287 (b)). -/
theorem exec_of_dutyKept {i : Instr} {r : Request} (hi : encode i = .request r) (hp : s.eng.pc.ready = true)
    (hduty : (s.accept r).DutyKept) : exec i s = (s.accept r).dispatch.runRequest := by
  rw [exec_of_record hi hp, if_neg]
  rintro ⟨hop, hkept⟩
  rw [hduty hop] at hkept
  cases hkept

/-- The requests that pass their checks, as the statements write them. -/
theorem State.presents_of_passing {offset length : Nat} {buf : Option Nat} {i : Instr}
    (h : (i = .erase offset length buf ∧ eraseChecks s.cfg offset length = true) ∨
      (∃ k b, buf = some k ∧ s.host.bufs[k]? = some b ∧ b.length = length ∧
        ((i = .read offset length buf ∧ readChecks s.cfg offset length = true) ∨
          (i = .write offset length buf ∧ writeChecks s.cfg offset length = true)))) :
    s.Presents offset length i true := by
  rcases h with ⟨hi, hpass⟩ | ⟨k, b, rfl, hget, hsize, ⟨hi, hpass⟩ | ⟨hi, hpass⟩⟩
  · exact .erase buf hi hpass
  · exact .read k b hi hget hsize hpass
  · exact .write k b hi hget hsize hpass

end

/-- Settles O49: in DEAD every request is its acceptance, its answer and the response. -/
theorem deadEngineSendsNothing : Obligations.DeadEngineSendsNothing := by
  refine ⟨fun s offset length buf i hp hr hlength h => ?_, fun s t hp hport hs h => ?_⟩
  · obtain ⟨r, hi, rfl, hop, hduty, hchecks⟩ := (State.presents_of_passing h).exists_record
    have hready : s.eng.pc.ready = true := by rw [hp]; rfl
    have hbegins := (s.accept r).dispatch_begins
    have hdead : (s.accept r).eng.wasDead = true := by simp [hp]
    have hdispatch := State.dispatch_of_passed (s := s.accept r) hop hchecks hlength
    rw [if_pos hdead] at hdispatch
    have hexec := exec_of_answer hi hready hr hduty rfl (hbegins.pc_of_dead hdead)
    obtain ⟨hsame, htrace, hpc⟩ := hbegins.staysDead hp
    refine ⟨_, hexec, ?_, hsame, htrace, hpc⟩
    simp [hdispatch, State.responseRecord, State.raiseBeforeUnits_eng, hop]
  · have hready : s.eng.pc.ready = true := by rw [hp]; rfl
    obtain ⟨-, hc⟩ := step_cases h
    cases hc with
    | command _ _ port | rejected _ _ port => rw [hport] at port; cases port
    | waited _ _ _ _ result => subst result; exact ⟨hp, rfl, rfl, .inl rfl⟩
    | operation r rest i _ _ _ _ _ decoded runs =>
      obtain ⟨hsame, htrace, hpc⟩ := State.staysDead_of_exec (s := s.takeRecord rest)
        (encode_of_decodeRequest decoded) hp (fun hm => hs (List.mem_of_mem_tail hm)) runs
      exact ⟨hpc, hsame.dev, hsame.reply, .inr htrace⟩
    | unassigned r rest _ _ _ _ _ _ _ runs =>
      have hbegins : ((s.takeRecord rest).accept r).Begins (((s.takeRecord rest).accept r).raise .invalidArgument) :=
        .answers (.inr (.inl rfl))
      rw [execUnassigned_of_ready (s := s.takeRecord rest) hready fun hm => hs (List.mem_of_mem_tail hm)] at runs
      cases runs
      obtain ⟨hsame, htrace, hpc⟩ := hbegins.staysDead hp
      exact ⟨hpc, hsame.dev, hsame.reply, .inr htrace⟩
    | moved _ notTaking =>
      rw [hready, s.resetNow_of_noReset hs] at notTaking
      rcases notTaking with h | h <;> cases h

end Sys2Proof.Machine
end

/-! ### The recovery await -/

section
namespace Sys2Proof.Machine

section
variable {s t : State}

/-- What a status read of the recovery await does to the engine, whose `pc` stays RECOVER (R172, R310). -/
theorem State.pollRecover_spec (hp : s.eng.pc = .recover) :
    let t := s.pollRecover
    t.trace = s.trace ++ [.frame [opcRdsr, statusReg] 1] ∧
      (t.reply ≠ .transportError → ∃ b, t.reply = .data [b] ∧
        t.eng = { s.eng with polls := s.eng.polls + 1, status := b }) ∧
      (t.reply = .transportError → t.eng = (s.raise .transportError).eng) := by
  obtain ⟨u, hu, -, ⟨hr, hread⟩ | ⟨b, hr, hread⟩⟩ :=
    s.poll_spec .recover fun t => t.raiseBeforeUnits .transportError <;>
    simp [State.pollRecover, hread, hr, hp, hu.trace, hu.eng, State.raiseBeforeUnits_trace,
      State.raiseBeforeUnits_eng, (u.raiseBeforeUnits_sameDevice .transportError).reply]

/-- The device is known to be idle again (R309). -/
def State.recovered (s : State) : State := { s with eng := { s.eng with maybeBusy := false } }

/-- The test of the unit loop leaves MAYBE_BUSY. -/
theorem State.loopTest_maybeBusy (s : State) : s.loopTest.eng.maybeBusy = s.eng.maybeBusy := by
  unfold State.loopTest
  split <;> rfl

theorem unitBoundaryOf_unitBoundary (op : Byte) : (unitBoundaryOf op).unitBoundary = true := by
  unfold unitBoundaryOf
  split_ifs <;> rfl

/-- With units in the plan the unit loop begins at the boundary of the first. -/
theorem State.firstUnit_unitBoundary (h : 0 < s.eng.nunits) : s.firstUnit.eng.pc.unitBoundary = true := by
  rw [State.firstUnit, State.loopTest, if_pos h]
  exact unitBoundaryOf_unitBoundary _

/-! #### The settle decision, branch by branch (R172) -/

theorem State.seq_of_recover (hp : s.eng.pc = .recover) : s.seq = .next s.seqRecover := by
  simp only [State.seq, hp]

/-- The recovery await begins with a read. -/
theorem State.seqRecover_of_first (hpolls : s.eng.polls = 0) : s.seqRecover = s.pollRecover := by
  rw [State.seqRecover, if_pos hpolls]

/-- Busy set away from the poll limit asks for one more read. -/
theorem State.seqRecover_of_again (hpolls : s.eng.polls ≠ 0) (hbusy : busyBit s.eng.status = true)
    (hlimit : s.eng.polls ≠ s.cfg.pollLimit) : s.seqRecover = s.wait.pollRecover := by
  simp [State.seqRecover, settle, hpolls, hbusy, hlimit]

/-- Busy clear ends the await and the first unit begins, whatever the fail bits (R310). -/
theorem State.seqRecover_of_clear (hpolls : s.eng.polls ≠ 0) (hbusy : busyBit s.eng.status = false) :
    s.seqRecover = s.recovered.firstUnit := by
  rw [State.seqRecover, if_neg hpolls, settle, if_pos hbusy]
  by_cases hmask : s.eng.status &&& s.eng.mask = 0
  · rw [if_neg (not_not.2 hmask)]; rfl
  · rw [if_pos hmask]; rfl

/-- Busy set at the poll limit is a timeout. -/
theorem State.seqRecover_of_limit (hpolls : s.eng.polls ≠ 0) (hbusy : busyBit s.eng.status = true)
    (hlimit : s.eng.polls = s.cfg.pollLimit) : s.seqRecover = s.raiseBeforeUnits .timeout := by
  rw [State.seqRecover, if_neg hpolls, settle, hbusy, if_neg (by decide), if_pos hlimit]

/-! #### A request that begins with the await -/

/-- The trace of a request only grows. -/
theorem State.Running.traceGrows {fuel : Nat} (hs : s.Running) (h : runInFlight fuel s = .next t) :
    TraceGrows s t :=
  runInFlight_induction (R := fun u v => u.Running → TraceGrows u v) (fun u _ => TraceGrows.refl u)
    (fun u _ _ hp hmove hrest hu =>
      (u.transition_traceGrows (u.resetNow_of_noReset hu.noReset) hmove).trans
        (hrest (hu.seq_of_transition hp hmove).2)) h hs

/-- A run that begins with the recovery await reads the status first. -/
theorem State.Running.trace_of_recover (hs : s.Running) (hp : s.eng.pc = .recover) (hpolls : s.eng.polls = 0)
    (h : s.runRequest = .next t) : s.trace ++ [.frame [opcRdsr, statusReg] 1] <+: t.trace := by
  have hmove : s.transition = .next s.takeMove.pollRecover := by
    rw [State.transition_of_no_reset s (s.resetNow_of_noReset hs.noReset)]
    rw [State.seq_of_recover (s := s.takeMove) hp, State.seqRecover_of_first (s := s.takeMove) hpolls]
  have hin : s.eng.pc.inFlight = true := by rw [hp]; rfl
  rw [State.runRequest, State.requestFuel, runInFlight_succ _ hin hmove] at h
  have hgrows := (hs.seq_of_transition hin hmove).2.traceGrows h
  rwa [TraceGrows, (State.pollRecover_spec (s := s.takeMove) hp).1] at hgrows

/-- With MAYBE_BUSY set, a request with units begins with the recovery await (R310). -/
theorem State.dispatch_of_maybeBusy (hop : s.eng.op ≠ hostGeometry) (hchecks : s.checksPass = true)
    (hlength : 0 < s.eng.length) (halive : s.eng.wasDead = false) (hmaybe : s.eng.maybeBusy = true) :
    s.dispatch = s.withPlan.enterRecover := by
  rw [State.dispatch_of_passed hop hchecks hlength, halive]
  simp [State.startUnits, hmaybe, State.withPlan]

end

/-- Settles O42: a request begins with the recovery await, and each move in RECOVER is one branch of its decision. -/
theorem recoveryAwaitClearsMaybeBusy : Obligations.RecoveryAwaitClearsMaybeBusy := by
  refine ⟨fun s => rfl, fun s offset length buf i hv hp hmaybe hs hlength h => ?_,
    fun s hp => ⟨fun hmore => ?_, fun hpolls hbusy => ?_, fun hpolls hbusy hlimit => ?_⟩⟩
  · obtain ⟨r, hi, rfl, hop, hduty, hchecks⟩ := (State.presents_of_passing h).exists_record
    obtain ⟨t, hrun, -⟩ := State.runRequest_answers (s := s.accept r) (pollLimit_pos hv) hs hduty
    have hdispatch := State.dispatch_of_maybeBusy (s := s.accept r) hop hchecks hlength (by simp [hp]) hmaybe
    have hrunning := (s.accept r).dispatch_begins.running hs
    refine ⟨t, (exec_of_dutyKept hi (by rw [hp]; rfl) hduty).trans hrun, ?_⟩
    rw [hdispatch] at hrun hrunning
    obtain ⟨rest, htrace⟩ := hrunning.trace_of_recover rfl rfl hrun
    rw [← htrace]
    rfl
  · rw [State.seq_of_recover hp]
    refine ⟨_, rfl, ?_⟩
    by_cases hpolls : s.eng.polls = 0
    · obtain ⟨htrace, hanswer, herror⟩ := State.pollRecover_spec hp
      rw [State.seqRecover_of_first hpolls, if_pos hpolls, List.append_nil]
      exact ⟨htrace, hanswer, fun hr => (herror hr).trans (State.raise_eng_of_leavesBusy rfl)⟩
    · obtain ⟨hbusy, hlimit⟩ := hmore.resolve_left hpolls
      obtain ⟨htrace, hanswer, herror⟩ := State.pollRecover_spec (s := s.wait) hp
      rw [State.seqRecover_of_again hpolls hbusy hlimit, if_neg hpolls]
      exact ⟨htrace, hanswer, fun hr => (herror hr).trans (State.raise_eng_of_leavesBusy rfl)⟩
  · rw [State.seq_of_recover hp, State.seqRecover_of_clear hpolls hbusy]
    exact ⟨_, rfl, State.loopTest_maybeBusy _, State.firstUnit_eng.2.1, State.loopTest_trace _, State.loopTest_dev _,
      State.firstUnit_unitBoundary (s := s.recovered)⟩
  · rw [State.seq_of_recover hp, State.seqRecover_of_limit hpolls hbusy hlimit]
    refine ⟨_, rfl, ?_, ?_, ?_, ?_, s.raiseBeforeUnits_trace _, (s.raiseBeforeUnits_sameDevice _).dev⟩ <;>
      simp [State.raiseBeforeUnits_eng, ErrorCode.leavesBusy]

end Sys2Proof.Machine
end

/-! ### RESULT, MAYBE_BUSY and the write-disable

`State.Signals` says once what one move of the sequencer does to RESULT and MAYBE_BUSY, and that WRDI sends the only
WRDI. -/

section
namespace Sys2Proof.Machine

/-- The second state's trace continues that of the first without a WRDI. -/
def State.SendsNoWrdi (s t : State) : Prop :=
  ∃ sent, t.trace = s.trace ++ sent ∧ TraceEvent.frame [opcWrdi] 0 ∉ sent

/-- The states from a unit's last status read to its failure: there the last frame was answered. -/
def failingStates : List Pc := [.eBusy, .pBusy, .eFailed, .pFailed]

/-- What one move of the sequencer does to RESULT and MAYBE_BUSY. -/
inductive State.Signals (s t : State) : Prop where
  /-- RESULT stands, and MAYBE_BUSY is not set -/
  | goesOn (place : s.eng.pc ≠ .wrdi) (quiet : s.SendsNoWrdi t) (result : t.eng.result = s.eng.result)
      (flag : t.eng.maybeBusy = true → s.eng.maybeBusy = true)
      (answered : t.reply ≠ .transportError ∨
        (t.eng.pc ∈ failingStates → s.eng.pc ∈ failingStates ∧ t.reply = s.reply))
  /-- an error is entered -/
  | fails (e : ErrorCode) (place : s.eng.pc ≠ .wrdi) (quiet : s.SendsNoWrdi t) (result : t.eng.result = e)
      (flag : t.eng.maybeBusy = (s.eng.maybeBusy || e.leavesBusy)) (pc : t.eng.pc = .respond)
      (failed : e = .operationFailed → s.eng.pc ∈ failingStates ∧ t.reply = s.reply)
  /-- the write-disable ends the request -/
  | disables (place : s.eng.pc = .wrdi) (result : t.eng.result = .operationFailed)
      (flag : t.eng.maybeBusy = (s.eng.maybeBusy || decide (t.reply = .transportError))) (pc : t.eng.pc = .respond)

section
variable {s t u : State}

/-! #### What is sent -/

theorem State.SendsNoWrdi.of_trace (h : t.trace = s.trace) : s.SendsNoWrdi t :=
  ⟨[], by rw [h, List.append_nil], List.not_mem_nil⟩

theorem State.SendsNoWrdi.of_frame {tx : List Byte} {rx : Nat} (hu : s.SendsNoWrdi u) (htx : tx ≠ [opcWrdi])
    (h : t.trace = u.trace ++ [.frame tx rx]) : s.SendsNoWrdi t := by
  obtain ⟨sent, htrace, hsent⟩ := hu
  refine ⟨sent ++ [.frame tx rx], by rw [h, htrace, List.append_assoc], ?_⟩
  simp [hsent, htx.symm]

theorem State.sendsNoWrdi_wait (s : State) : s.SendsNoWrdi s.wait := ⟨[.wait], rfl, by simp⟩

/-! #### What the parts of a sequence leave of the last answer -/

theorem State.raiseCancelled_reply (s : State) : s.raiseCancelled.reply = s.reply := by
  unfold State.raiseCancelled
  split
  · exact s.abortUnit_reply _
  · rfl

/-- The memory write of a read slice keeps the last answer. -/
theorem State.memWrite_reply {i : Nat} {v : List Byte} (h : s.memWrite i v = some t) : t.reply = s.reply := by
  unfold State.memWrite at h
  split at h
  · cases h
  · split at h
    · cases h; exact (s.setBuffer_rest _).2.2.2.2.2.1
    · cases h

/-! #### The states without a failing unit -/

theorem State.AtLoop.not_failing (h : s.AtLoop) : s.eng.pc ∉ failingStates := by
  have hstates : ∀ p ∈ [Pc.eUnit, .pUnit, .rUnit, .respond], p ∉ failingStates := by decide
  exact hstates _ h.pc_mem

theorem State.respond_not_failing (s : State) : s.respond.eng.pc ∉ failingStates := by
  rcases s.respond_pc with h | h <;> rw [h] <;> decide

namespace State.Signals

/-! #### The kinds of moves -/

/-- A move that sends nothing. -/
theorem still (place : s.eng.pc ≠ .wrdi) (trace : t.trace = s.trace) (reply : t.reply = s.reply)
    (result : t.eng.result = s.eng.result) (flag : t.eng.maybeBusy = true → s.eng.maybeBusy = true)
    (pc : t.eng.pc ∈ failingStates → s.eng.pc ∈ failingStates) : s.Signals t :=
  .goesOn place (.of_trace trace) result flag (.inr fun h => ⟨pc h, reply⟩)

/-- An error that is entered without a frame. -/
theorem error (e : ErrorCode) (place : s.eng.pc ≠ .wrdi) (trace : t.trace = s.trace) (reply : t.reply = s.reply)
    (eng : t.eng = (s.raise e).eng) (failed : e = .operationFailed → s.eng.pc ∈ failingStates) : s.Signals t :=
  .fails e place (.of_trace trace) (by rw [eng]; rfl) (by rw [eng]; rfl) (by rw [eng]; rfl)
    fun h => ⟨failed h, reply⟩

/-- A frame that moves on if it is answered, and ends the request if it is not, from a state `u` that differs in the
registers of the plan and in a `Wait` only. -/
theorem frame {tx : List Byte} {rx : Nat} (place : s.eng.pc ≠ .wrdi) (before : s.SendsNoWrdi u)
    (result : u.eng.result = s.eng.result) (flag : u.eng.maybeBusy = s.eng.maybeBusy) (htx : tx ≠ [opcWrdi])
    (trace : t.trace = u.trace ++ [.frame tx rx])
    (answer : t.reply ≠ .transportError → t.eng.result = u.eng.result ∧ t.eng.maybeBusy = u.eng.maybeBusy)
    (error : t.reply = .transportError → t.eng = (u.raise .transportError).eng) : s.Signals t := by
  have quiet := before.of_frame htx trace
  by_cases hr : t.reply = .transportError
  · have heng := error hr
    exact .fails .transportError place quiet (by rw [heng]; rfl) (by rw [heng, ← flag]; rfl) (by rw [heng]; rfl)
      fun h => nomatch h
  · obtain ⟨hresult, hflag⟩ := answer hr
    exact .goesOn place quiet (hresult.trans result) (fun h => by rwa [← flag, ← hflag]) (.inl hr)

/-! #### The parts of a sequence -/

/-- A frame of a unit. -/
theorem unitFrame {tx : List Byte} (next : Pc) (place : s.eng.pc ≠ .wrdi) (before : s.SendsNoWrdi u)
    (result : u.eng.result = s.eng.result) (flag : u.eng.maybeBusy = s.eng.maybeBusy) (htx : tx ≠ [opcWrdi]) :
    s.Signals (u.unitFrame tx next) := by
  obtain ⟨htrace, hanswer, herror⟩ := u.unitFrame_spec tx next
  exact frame place before result flag htx htrace (fun hr => by rw [hanswer hr]; exact ⟨rfl, rfl⟩) herror

/-- A status read of a unit's await. -/
theorem pollUnit (polling : Pc) (place : s.eng.pc ≠ .wrdi) (before : s.SendsNoWrdi u)
    (result : u.eng.result = s.eng.result) (flag : u.eng.maybeBusy = s.eng.maybeBusy) :
    s.Signals (u.pollUnit polling) := by
  obtain ⟨htrace, hanswer, herror⟩ := u.pollUnit_spec polling
  refine frame place before result flag (by decide) htrace (fun hr => ?_) herror
  obtain ⟨b, -, heng⟩ := hanswer hr
  rw [heng]
  exact ⟨rfl, rfl⟩

/-- The first status read of a unit's await. -/
theorem awaitUnit (mask : Byte) (polling : Pc) (place : s.eng.pc ≠ .wrdi) :
    s.Signals ((s.startAwait mask).pollUnit polling) :=
  pollUnit polling place (.of_trace rfl) rfl rfl

/-- A status read of the recovery await. -/
theorem pollRecover (hp : s.eng.pc = .recover) (before : s.SendsNoWrdi u) (heng : u.eng = s.eng) :
    s.Signals u.pollRecover := by
  obtain ⟨htrace, hanswer, herror⟩ := State.pollRecover_spec (s := u) (by rw [heng, hp])
  refine frame (by rw [hp]; decide) before (by rw [heng]) (by rw [heng]) (by decide) htrace (fun hr => ?_) herror
  obtain ⟨b, -, hb⟩ := hanswer hr
  rw [hb]
  exact ⟨rfl, rfl⟩

/-- The polling state of a unit. -/
theorem seqBusy {polling : Pc} {settled failed : State → State} (place : s.eng.pc ≠ .wrdi)
    (hs : s.Signals (settled s)) (hf : s.Signals (failed s)) : s.Signals (s.seqBusy polling settled failed) := by
  unfold State.seqBusy
  split
  · exact hs
  · exact hf
  · exact error .timeout place (s.abortUnit_trace _) (s.abortUnit_reply _) (s.abortUnit_eng _) nofun
  · exact pollUnit polling place s.sendsNoWrdi_wait rfl rfl

/-- The test of the unit loop, from a state `u` whose flag may have been cleared. -/
theorem loopTest (place : s.eng.pc ≠ .wrdi) (trace : u.trace = s.trace) (reply : u.reply = s.reply)
    (result : u.eng.result = s.eng.result) (flag : u.eng.maybeBusy = true → s.eng.maybeBusy = true) :
    s.Signals u.loopTest := by
  obtain ⟨hloop, -, hresult⟩ := u.loopTest_eng
  exact still place (u.loopTest_trace.trans trace) (u.loopTest_reply.trans reply) (hresult.trans result)
    (fun h => flag (by rwa [← u.loopTest_maybeBusy])) fun h => absurd h hloop.not_failing

theorem seqRecover (hp : s.eng.pc = .recover) : s.Signals s.seqRecover := by
  have place : s.eng.pc ≠ .wrdi := by rw [hp]; decide
  unfold State.seqRecover
  split
  · exact pollRecover hp (.of_trace rfl) rfl
  · split
    · exact loopTest place rfl rfl rfl nofun
    · exact loopTest place rfl rfl rfl nofun
    · exact error .timeout place (s.raiseBeforeUnits_trace _) (s.raiseBeforeUnits_sameDevice _).reply
        (State.raiseBeforeUnits_eng _) nofun
    · exact pollRecover hp s.sendsNoWrdi_wait rfl

theorem seqBringup (hp : s.eng.pc = .bringup) : s.Signals s.seqBringup := by
  have quiet : s.SendsNoWrdi (s.send [opcWrsr, protectReg, 0x00] 0) :=
    .of_frame (.of_trace rfl) (by decide) (s.send_trace _ _)
  have heng := s.send_eng [opcWrsr, protectReg, 0x00] 0
  rcases s.seqBringup_spec with ⟨-, h⟩ | ⟨-, h⟩ <;> rw [h]
  · exact .goesOn (by rw [hp]; decide) quiet (by simp) (by simp)
      (.inr fun h => absurd h (by decide : Pc.dead ∉ failingStates))
  · exact .goesOn (by rw [hp]; decide) quiet (by simp) (by simp)
      (.inr fun h => absurd h (by decide : Pc.idle ∉ failingStates))

theorem raiseCancelled (place : s.eng.pc ≠ .wrdi) : s.Signals s.raiseCancelled :=
  error .cancelled place s.raiseCancelled_trace s.raiseCancelled_reply State.raiseCancelled_eng nofun

theorem seqEUnit (place : s.eng.pc ≠ .wrdi) : s.Signals s.seqEUnit := by
  unfold State.seqEUnit
  split
  · exact raiseCancelled place
  · exact unitFrame _ place (.of_trace rfl) rfl rfl (by decide)

theorem seqPUnit (place : s.eng.pc ≠ .wrdi) : s.Signals s.seqPUnit := by
  unfold State.seqPUnit
  split
  · exact raiseCancelled place
  · exact unitFrame _ place (.of_trace rfl) rfl rfl (by decide)

theorem seqRUnit (place : s.eng.pc ≠ .wrdi) : s.Signals s.seqRUnit := by
  unfold State.seqRUnit
  split
  · exact raiseCancelled place
  · exact unitFrame (u := s.loadSlice) _ place (.of_trace rfl) rfl rfl (by simp [pageFrame])

theorem seqPWel (place : s.eng.pc ≠ .wrdi) (h : s.seqPWel = .next t) : s.Signals t := by
  unfold State.seqPWel at h
  split at h
  · cases h
  · cases h; exact unitFrame _ place (.of_trace rfl) rfl rfl (by simp)

theorem seqRReady (place : s.eng.pc ≠ .wrdi) (h : s.seqRReady = .next t) : s.Signals t := by
  have htx : readCacheFrame s.eng.col ≠ [opcWrdi] := by simp [readCacheFrame]
  have hsent := s.send_trace (readCacheFrame s.eng.col) s.eng.slen
  simp only [State.seqRReady] at h
  split at h
  · rename_i hr
    cases h
    refine frame (u := s) place (.of_trace rfl) rfl rfl htx ((State.abortUnit_trace _ _).trans hsent)
      (fun hn => absurd ((State.abortUnit_reply _ _).trans hr) hn) fun _ => ?_
    simp
  · rename_i d hr
    split at h
    · cases h
    · rename_i w hw
      cases h
      have hweng : w.eng = s.eng := (State.memWrite_eng hw).trans (s.send_eng _ _)
      have hreply := (State.loopTest_reply { w with eng := { w.eng with unit := w.eng.unit + 1 } }).trans
        ((State.memWrite_reply hw).trans hr)
      refine frame (u := s) place (.of_trace rfl) rfl rfl htx
        ((State.loopTest_trace _).trans ((State.memWrite_trace _ hw).trans hsent)) (fun _ => ⟨?_, ?_⟩)
        fun he => absurd (hreply.symm.trans he) nofun
      · exact State.loopTest_eng.2.2.trans (by rw [hweng])
      · exact (State.loopTest_maybeBusy _).trans (by rw [hweng])

theorem seqFailed (hp : s.eng.pc = .eFailed ∨ s.eng.pc = .pFailed) : s.Signals s.seqFailed := by
  have place : s.eng.pc ≠ .wrdi := by rcases hp with h | h <;> rw [h] <;> decide
  unfold State.seqFailed
  split
  · exact still place rfl rfl rfl id fun h => absurd h (by decide : Pc.wrdi ∉ failingStates)
  · exact error .operationFailed place rfl rfl rfl fun _ => by rcases hp with h | h <;> rw [h] <;> decide

end State.Signals

theorem Reply.eq_cases (r : Reply) : r = .transportError ∨ ∃ d, r = .data d := by
  cases r with
  | transportError => exact .inl rfl
  | data d => exact .inr ⟨d, rfl⟩

/-- The write-disable is one frame, and OPERATION_FAILED however it ends (R305). -/
theorem State.seqWrdi_spec (s : State) :
    let t := s.seqWrdi
    t.trace = s.trace ++ [.frame [opcWrdi] 0] ∧ t.eng = { s.eng with
      result := .operationFailed, count := 0, pc := .respond
      maybeBusy := s.eng.maybeBusy || decide (t.reply = .transportError) } := by
  rcases (s.send [opcWrdi] 0).reply.eq_cases with h | ⟨d, h⟩ <;>
    simp [State.seqWrdi, h, ErrorCode.leavesBusy]

theorem State.Signals.seqWrdi (hp : s.eng.pc = .wrdi) : s.Signals s.seqWrdi := by
  obtain ⟨-, heng⟩ := s.seqWrdi_spec
  exact .disables hp (by rw [heng]) (by rw [heng]) (by rw [heng])

/-- Every move of the sequencer, one case for each value of `pc` (R24). -/
theorem State.signals_of_seq (h : s.seq = .next t) : s.Signals t := by
  cases hp : s.eng.pc <;> simp only [State.seq, hp, Host.Outcome.next.injEq] at h
  case wrdi => subst h; exact .seqWrdi hp
  all_goals have place : s.eng.pc ≠ .wrdi := by rw [hp]; decide
  case pWel => exact .seqPWel place h
  case rReady => exact .seqRReady place h
  all_goals subst h
  case bringup => exact .seqBringup hp
  case idle => exact .still place rfl rfl rfl id id
  case dead => exact .still place rfl rfl rfl id id
  case recover => exact .seqRecover hp
  case eUnit => exact .seqEUnit place
  case eWel => exact .unitFrame _ place (.of_trace rfl) rfl rfl (by simp [pageFrame])
  case eCmd => exact .awaitUnit _ _ place
  case eBusy =>
    exact .seqBusy place (.still place rfl rfl rfl id fun _ => by rw [hp]; decide)
      (.still place rfl rfl rfl id fun _ => by rw [hp]; decide)
  case eReady => exact .loopTest place rfl rfl rfl id
  case eFailed => exact .seqFailed (.inl hp)
  case pUnit => exact .seqPUnit place
  case pLoaded => exact .unitFrame _ place (.of_trace rfl) rfl rfl (by simp [pageFrame])
  case pCmd => exact .awaitUnit _ _ place
  case pBusy =>
    exact .seqBusy place (.still place rfl rfl rfl id fun _ => by rw [hp]; decide)
      (.still place rfl rfl rfl id fun _ => by rw [hp]; decide)
  case pReady => exact .loopTest place rfl rfl rfl id
  case pFailed => exact .seqFailed (.inr hp)
  case rUnit => exact .seqRUnit place
  case rPageLoaded => exact .awaitUnit _ _ place
  case rBusy =>
    have hrReady : Pc.rReady ∉ failingStates := by decide
    exact .seqBusy place (.still place rfl rfl rfl id fun h => absurd h hrReady)
      (.still place rfl rfl rfl id fun h => absurd h hrReady)
  case respond => exact .still place rfl rfl rfl id fun h => absurd h s.respond_not_failing

/-- A transition that nobody resets: the host's move touches CANCEL only. -/
theorem State.signals_of_transition (hr : s.resetNow = false) (h : s.transition = .next t) : s.Signals t := by
  rw [State.transition_of_no_reset s hr] at h
  cases State.signals_of_seq h with
  | goesOn place quiet result flag answered => exact .goesOn place quiet result flag answered
  | fails e place quiet result flag pc failed => exact .fails e place quiet result flag pc failed
  | disables place result flag pc => exact .disables place result flag pc

end

/-- Settles O41: WRDI_ON_FAIL decides, the write-disable is one frame, and no other move sends it. -/
theorem writeDisableFollowsAFailedUnit : Obligations.WriteDisableFollowsAFailedUnit := by
  intro s
  refine ⟨fun hp => ?_, fun hp => ?_, fun t sent hp h htrace => ?_⟩
  · have hseq : s.seq = .next s.seqFailed := by rcases hp with h | h <;> simp only [State.seq, h]
    rw [hseq, State.seqFailed]
    refine ⟨fun hw => ?_, fun hw => ?_⟩
    · simp [hw, State.raise, ErrorCode.leavesBusy]
    · rw [if_pos hw]; rfl
  · obtain ⟨htrace, heng⟩ := s.seqWrdi_spec
    exact ⟨_, by simp only [State.seq, hp], htrace, heng⟩
  · have hquiet : s.SendsNoWrdi t := by
      cases State.signals_of_seq h with
      | goesOn _ quiet | fails _ _ quiet => exact quiet
      | disables place => exact absurd place hp
    obtain ⟨sent', htrace', hsent'⟩ := hquiet
    rwa [List.append_cancel_left (htrace.symm.trans htrace')]

end Sys2Proof.Machine
end

/-! ### MAYBE_BUSY of a whole request -/

section
namespace Sys2Proof.Machine

/-- MAYBE_BUSY is set exactly where RESULT and the last answer say so (R309). -/
def State.FlagAccounted (s : State) : Prop :=
  s.eng.maybeBusy = true ↔ s.eng.result = .timeout ∨ s.eng.result = .transportError ∨
    (s.eng.result = .operationFailed ∧ s.reply = .transportError)

/-- The invariant of a request that began with MAYBE_BUSY = 0: until it ends there is no error and the flag is clear,
and a unit that may fail has had its last frame answered. -/
structure State.Accounted (s : State) : Prop where
  flag : s.FlagAccounted
  going : s.eng.pc ∉ endStates → s.eng.result = .ok ∧ s.eng.maybeBusy = false
  answered : s.eng.pc ∈ failingStates → s.reply ≠ .transportError

section
variable {s t : State}

/-- Without an error and with the flag clear the flag is accounted for. -/
theorem State.flagAccounted_of_ok (hresult : s.eng.result = .ok) (hflag : s.eng.maybeBusy = false) :
    s.FlagAccounted := by
  simp [State.FlagAccounted, hresult, hflag]

/-- An error that is entered with the flag clear accounts for it; OPERATION_FAILED only if the last frame was
answered. -/
theorem State.flagAccounted_of_error {e : ErrorCode} (hresult : t.eng.result = e)
    (hflag : t.eng.maybeBusy = e.leavesBusy) (hreply : e = .operationFailed → t.reply ≠ .transportError) :
    t.FlagAccounted := by
  rw [State.FlagAccounted, hresult, hflag]
  cases e <;> simp_all [ErrorCode.leavesBusy]

theorem State.accounted_of_respond (h : s.FlagAccounted) (hp : s.eng.pc = .respond) : s.Accounted :=
  ⟨h, fun hn => absurd (by rw [hp]; decide) hn, fun hf => absurd hf (by rw [hp]; decide)⟩

/-- Before the response, a request in flight has not ended. -/
theorem Pc.not_mem_endStates {p : Pc} (hin : p.inFlight = true) (hp : p ≠ .respond) : p ∉ endStates := by
  cases p <;> simp_all [endStates, Pc.inFlight]

/-- The response keeps RESULT, MAYBE_BUSY and the last answer. -/
theorem State.Accounted.respond (hs : s.Accounted) : s.respond.Accounted where
  flag := hs.flag
  going hn := absurd (by rcases s.respond_pc with h | h <;> rw [h] <;> decide) hn
  answered hf := absurd hf s.respond_not_failing

/-- A request in flight stays accounted for. -/
theorem State.Accounted.transition (hs : s.Accounted) (hin : s.eng.pc.inFlight = true) (hr : s.resetNow = false)
    (h : s.transition = .next t) : t.Accounted := by
  by_cases hp : s.eng.pc = .respond
  · have hresponds : s.transition = .next s.takeMove.respond := by
      rw [State.transition_of_no_reset s hr]
      simp [State.seq, hp]
    cases hresponds.symm.trans h
    exact State.Accounted.respond (s := s.takeMove) ⟨hs.flag, hs.going, hs.answered⟩
  · obtain ⟨hok, hclear⟩ := hs.going (Pc.not_mem_endStates hin hp)
    cases State.signals_of_transition hr h with
    | goesOn _ _ result flag answered =>
      have htok := result.trans hok
      have htclear : t.eng.maybeBusy = false := Bool.eq_false_iff.2 fun ht => by
        rw [flag ht] at hclear; cases hclear
      refine ⟨State.flagAccounted_of_ok htok htclear, fun _ => ⟨htok, htclear⟩, fun hf => ?_⟩
      rcases answered with hreply | hfailing
      · exact hreply
      · obtain ⟨hplace, hreply⟩ := hfailing hf
        rw [hreply]
        exact hs.answered hplace
    | fails e _ _ result flag pc failed =>
      rw [hclear] at flag
      refine State.accounted_of_respond (State.flagAccounted_of_error result flag fun he => ?_) pc
      obtain ⟨hplace, hreply⟩ := failed he
      rw [hreply]
      exact hs.answered hplace
    | disables _ result flag pc =>
      refine State.accounted_of_respond ?_ pc
      simp [State.FlagAccounted, result, flag, hclear]

theorem State.Running.accounted (hs : s.Running) (ha : s.Accounted) (h : s.runRequest = .next t) : t.Accounted :=
  hs.induction (R := fun u v => u.Accounted → v.Accounted) (fun _ => id) (fun huv hvw hu => hvw (huv hu))
    (fun {u} _ hu hp hmove ha => ha.transition hp (u.resetNow_of_noReset hu.noReset) hmove) h ha

/-- The run of a request that finds MAYBE_BUSY clear begins accounted for. -/
theorem State.Begins.accounted (h : s.Begins t) (hok : s.eng.result = .ok) (hclear : s.eng.maybeBusy = false) :
    t.Accounted := by
  cases h with
  | answers result =>
    rcases result with rfl | rfl | rfl
    · exact State.accounted_of_respond (State.flagAccounted_of_ok hok hclear) rfl
    · exact State.accounted_of_respond (State.flagAccounted_of_error rfl (by simp [hclear]) nofun) rfl
    · have heng := State.raiseBeforeUnits_eng (s := s) .transportError
      exact State.accounted_of_respond
        (State.flagAccounted_of_error (e := .transportError) (by rw [heng]; rfl) (by simp [heng, hclear]) nofun)
        (by rw [heng]; rfl)
  | recovers _ _ result =>
    rw [result]
    exact ⟨State.flagAccounted_of_ok hok hclear, fun _ => ⟨hok, hclear⟩,
      fun hf => absurd hf (by decide : Pc.recover ∉ failingStates)⟩
  | loops _ _ result =>
    obtain ⟨hloop, -, hresult⟩ := s.withPlan.firstUnit_eng
    have htok := hresult.trans hok
    have htclear : s.withPlan.firstUnit.eng.maybeBusy = false := (State.loopTest_maybeBusy _).trans hclear
    rw [result]
    exact ⟨State.flagAccounted_of_ok htok htclear, fun _ => ⟨htok, htclear⟩,
      fun hf => absurd hf hloop.not_failing⟩

end

/-- Settles O33: each clause accounts for MAYBE_BUSY by the moves that write it. -/
theorem maybeBusyIsSetOnlyByUnsettledEnds : Obligations.MaybeBusyIsSetOnlyByUnsettledEnds := by
  refine ⟨fun s t h hok hclear => ?_, fun s t i _ hp hs hi hclear h => ?_, fun s t i hi h => ?_⟩
  · cases hr : s.resetNow with
    | true =>
      rw [State.transition_of_reset hr] at h
      cases h
      simp [Engine.reset]
    | false =>
      cases State.signals_of_transition hr h with
      | goesOn place _ result flag =>
        have htclear : t.eng.maybeBusy ≠ true := fun ht => by
          rw [flag ht] at hclear; cases hclear
        simp [htclear, result, hok, place]
      | fails e place _ result flag => simp [flag, hclear, result, place, ErrorCode.leavesBusy_eq]
      | disables place result flag => simp [flag, hclear, result, place]
  · obtain ⟨r, hr⟩ := encode_of_operation hi
    have hbegins := (s.accept r).dispatch_begins
    exact ((hbegins.running hs).accounted (hbegins.accounted rfl hclear) (runRequest_of_exec hr hp h)).flag
  · obtain ⟨u, hu, hsame⟩ := spiCommandsLeaveTheEngine s i hi
    cases hu.symm.trans h
    rw [hsame.eng]

end Sys2Proof.Machine
end
